-- ==== Sys2Proof/Word.lean ====
section
/-! DEFINITION. The word type of the transport core: one byte.
R13: a byte is 8 bits, bit 0 the least significant, every quantity unsigned; R64: there is no multi-byte
integer anywhere, so this one width is enough and there is no byte order of data. -/

namespace Sys2Proof

/-- One byte (`u8`, R13). -/
abbrev Byte := BitVec 8

end Sys2Proof
end

