-- ==== Sys2Proof/Config.lean ====
section
/-! DEFINITION. What a build of the transport core fixes (R8) and the free values.
R8: "The model takes the following parameters as arguments. None of them is state; none changes while the
hardware runs." The fixed interface `step : State → …` takes no argument beside the state, so the parameters
travel in the state's field `par`, which no step writes (log entry 1). -/

namespace Sys2Proof

/-- The six pin assignments of a configuration record, in the order of R97. -/
structure Pins where
  /-- request line -/
  req : Byte
  /-- ready line -/
  rdy : Byte
  /-- reset line -/
  rst : Byte
  /-- bus clock -/
  clk : Byte
  /-- bus data-in -/
  din : Byte
  /-- bus data-out -/
  dout : Byte
deriving DecidableEq, Repr

/-- The implementation parameters of R8. -/
structure Params where
  /-- MAX_LENGTH, 1 to 255 -/
  maxLength : Nat
  /-- CAPACITY, 1 to 255, the same for both queues -/
  capacity : Nat
  /-- SEND_ASSERTS_REQ (D11) -/
  sendAssertsReq : Bool
  /-- ARM_SAMPLES_LEVEL (D14) -/
  armSamplesLevel : Bool
  /-- PinAssignmentValid, as the finite list of the assignments it rejects. Six bytes have finitely many
  values, so every total Boolean function of them is the complement of such a list (log entry 2). -/
  rejectedPins : List Pins
  /-- T_RESET_LONG: the opaque argument of one `EvDelay`; no rule reads it (V12) -/
  tResetLong : Nat
  /-- T_INIT_SETTLE: the opaque argument of one `EvDelay`; no rule reads it (V12) -/
  tInitSettle : Nat
  /-- REQ_ACTIVE_LEVEL: no rule reads it, all rules use logical levels (R141, D19) -/
  reqActiveLevel : Bool
deriving DecidableEq, Repr

/-- The ranges of R8: MAX_LENGTH and CAPACITY are each 1 to 255. -/
def Params.valid (p : Params) : Bool :=
  decide (1 ≤ p.maxLength) && decide (p.maxLength ≤ 255) &&
    decide (1 ≤ p.capacity) && decide (p.capacity ≤ 255)

/-- `PinAssignmentValid` (R203): a total function of the six pin fields alone. -/
def Params.pinAssignmentValid (p : Params) (c : Pins) : Bool :=
  !(p.rejectedPins.contains c)

/-- The one instantiation `State.reset` is built with (log entry 1, DESIGN CHOICE): the source's own example
sizes 17 and 4 (R9 calls them example instantiations, not values of the hardware) and the recommended
values of the open Booleans (R8). Every definition of the model takes the parameters from the state; no
other definition than `decodeTableWord` names this one. -/
def Config.exampleParams : Params where
  maxLength := 17
  capacity := 4
  sendAssertsReq := true
  armSamplesLevel := false
  rejectedPins := []
  tResetLong := 100
  tInitSettle := 30
  reqActiveLevel := false

/-- FREE VALUE (log entry 9): the byte the coprocessor answers in the n-th exchange for which the environment's
list of reply bytes holds none. R11: every exchanged byte may be any value 0 to 255. -/
opaque Config.freeReply : Nat → BitVec 8

/-- FREE VALUE (log entry 14): the byte read at an index beyond a frame's payload array. R62: no such access
occurs while TRANSFER's precondition `out.length <= MAX_LENGTH` (R160) holds; the spec states no value
for one. -/
opaque Config.freePayload : Nat → BitVec 8

end Sys2Proof
end

