-- ==== Sys2Proof/Syntax.lean ====
section
/-! DEFINITION. The operations of the block (R100) as one inductive, one constructor per row of
spec/opcode_table.json, and the two operand records they carry: the FrameBuffer (R21) and the
configuration record (R97). -/

namespace Sys2Proof

/-- A FrameBuffer (R21): `length`, `status`, and a payload of MAX_LENGTH + 1 bytes indexed 0 to MAX_LENGTH.
`length` and `payload[0]` are two separate bytes of storage (R23). -/
structure Frame where
  length : Byte
  status : Byte
  payload : List Byte
deriving DecidableEq, Repr

/-- The frame whose MAX_LENGTH + 3 bytes are all 0x00. It is NULL_FRAME (R24) and the value TE.rx is cleared to when
a cycle starts (R161, R169). -/
def Frame.zero (maxLength : Nat) : Frame :=
  { length := 0, status := 0, payload := List.replicate (maxLength + 1) 0 }

/-- The configuration record as presented at the port (R97): nine bytes, the flags still in one byte. -/
structure ConfigRecord where
  pins : Pins
  clkDiv : Byte
  variant : Byte
  flags : Byte
deriving DecidableEq, Repr

/-- `flags[0]` = irq_mode (R97). -/
def ConfigRecord.irqMode (c : ConfigRecord) : Bool := c.flags.getLsbD 0

/-- `flags[1]` = debug_echo (R97). -/
def ConfigRecord.debugEcho (c : ConfigRecord) : Bool := c.flags.getLsbD 1

/-- `flags[7:2]`, reserved (R97). -/
def ConfigRecord.reservedFlags (c : ConfigRecord) : Nat := c.flags.toNat / 4

/-- The queue select `q` of unit 0x1 (R98): 0 = TXQ, 1 = RXQ. -/
inductive QueueSel where
  | tx
  | rx
deriving DecidableEq, Repr

/-- Every operation of the block, in the order of R100. -/
inductive Instr where
  /-- 0x00 INITIALIZE (R202) -/
  | init (c : ConfigRecord)
  /-- 0x01 SEND (R204) -/
  | send (f : Frame)
  /-- 0x02 TRY_RECEIVE (R205) -/
  | tryReceive
  /-- 0x03 PEEK_RECEIVE (R206) -/
  | peekReceive
  /-- 0x04 RXQ_FULL (R207) -/
  | rxqFull
  /-- 0x05 RXQ_EMPTY (R208) -/
  | rxqEmpty
  /-- 0x06 TXQ_FULL (R209) -/
  | txqFull
  /-- 0x07 TXQ_EMPTY (R210) -/
  | txqEmpty
  /-- 0x08 FLUSH (R211) -/
  | flush
  /-- 0x09 PIN_RESET (R212) -/
  | pinReset
  /-- 0x10, 0x18 Q_INIT (R121) -/
  | qInit (q : QueueSel)
  /-- 0x11, 0x19 Q_ENQ (R122) -/
  | qEnq (q : QueueSel)
  /-- 0x12, 0x1A Q_DEQ (R123) -/
  | qDeq (q : QueueSel)
  /-- 0x13, 0x1B Q_PEEK (R124) -/
  | qPeek (q : QueueSel)
  /-- 0x14, 0x1C Q_FULL (R125) -/
  | qFull (q : QueueSel)
  /-- 0x15, 0x1D Q_EMPTY (R126) -/
  | qEmpty (q : QueueSel)
  /-- 0x20 REQ_ASSERT (R142) -/
  | reqAssert
  /-- 0x21 REQ_DEASSERT (R143) -/
  | reqDeassert
  /-- 0x22 RDY_READ (R144) -/
  | rdyRead
  /-- 0x23 WAKE_ARM (R145) -/
  | wakeArm
  /-- 0x24 WAKE_DISARM (R146) -/
  | wakeDisarm
  /-- 0x25 RESET_PULSE (R147) -/
  | resetPulse
  /-- 0x30 TRANSFER (R161) -/
  | transfer
  /-- 0x31 SCHED_STEP (R181) -/
  | schedStep
  /-- 0x40 RDY_FALL (R187) -/
  | rdyFall
  /-- 0x41 RDY_RISE (R188) -/
  | rdyRise
  /-- 0x42 ISR_SERVICE (R186) -/
  | isrService
deriving DecidableEq, Repr

/-- The ten application commands, unit 0x0: the operations the command port accepts (R95, R102). -/
def Instr.isCommand : Instr → Bool
  | .init _ | .send _ | .tryReceive | .peekReceive | .rxqFull | .rxqEmpty
  | .txqFull | .txqEmpty | .flush | .pinReset => true
  | .qInit _ | .qEnq _ | .qDeq _ | .qPeek _ | .qFull _ | .qEmpty _
  | .reqAssert | .reqDeassert | .rdyRead | .wakeArm | .wakeDisarm | .resetPulse
  | .transfer | .schedStep | .rdyFall | .rdyRise | .isrService => false

/-- The three event steps, unit 0x4 (R99). -/
def Instr.isEvent : Instr → Bool
  | .rdyFall | .rdyRise | .isrService => true
  | .init _ | .send _ | .tryReceive | .peekReceive | .rxqFull | .rxqEmpty
  | .txqFull | .txqEmpty | .flush | .pinReset
  | .qInit _ | .qEnq _ | .qDeq _ | .qPeek _ | .qFull _ | .qEmpty _
  | .reqAssert | .reqDeassert | .rdyRead | .wakeArm | .wakeDisarm | .resetPulse
  | .transfer | .schedStep => false

end Sys2Proof
end

