-- ==== Sys2Proof/WellFormed.lean ====
section
/-! DEFINITION. When an instruction is one that a build of the block with a given MAX_LENGTH can be given. -/

namespace Sys2Proof

/-- The storage shape of a FrameBuffer (R21): the payload array has MAX_LENGTH + 1 bytes. -/
def Frame.shaped (maxLength : Nat) (f : Frame) : Bool := f.payload.length == maxLength + 1

/-- A SEND operand is a FrameBuffer of this build's size (R96). A `length` byte above MAX_LENGTH is no defect of the
encoding (R104): the command is legal and is rejected with REJ_LENGTH. Every configuration record of nine
bytes is a legal operand of INITIALIZE (R103 makes an invalid one a condition of the command). -/
def Instr.wellFormed (maxLength : Nat) : Instr → Bool
  | .send f => f.shaped maxLength
  | .init _ | .tryReceive | .peekReceive | .rxqFull | .rxqEmpty
  | .txqFull | .txqEmpty | .flush | .pinReset
  | .qInit _ | .qEnq _ | .qDeq _ | .qPeek _ | .qFull _ | .qEmpty _
  | .reqAssert | .reqDeassert | .rdyRead | .wakeArm | .wakeDisarm | .resetPulse
  | .transfer | .schedStep | .rdyFall | .rdyRise | .isrService => true

end Sys2Proof
end

