-- ==== Sys2Proof/Decode.lean ====
section
/-! DEFINITION. From bytes to operations and back (30_encoding.md R91, R94 to R99).
An operation is one byte `op` and, for SEND and INITIALIZE, an operand (R94, R96). `op[7:4]` is the unit,
`op[3:0]` the function within the unit. -/

namespace Sys2Proof

/-- Why bytes are no operation. -/
inductive DecodeError where
  /-- there is no byte at all -/
  | noBytes
  /-- the code is none of the 33 codes of R100 (reserved functions and units, R95, R98, R99) -/
  | undefinedCode (op : Byte)
  /-- the code takes an operand (R96) and fewer bytes follow than it has -/
  | truncated (op : Byte)
deriving DecidableEq, Repr

/-- `op[7:4]`, the unit (R94). -/
def opUnit (op : Byte) : Nat := op.toNat / 16

/-- `op[3:0]`, the function within the unit (R94). -/
def opFunction (op : Byte) : Nat := op.toNat % 16

/-- A FrameBuffer as bytes (R91): `length`, `status`, `payload[0]`, ... `payload[MAX_LENGTH]`. -/
def Frame.bytes (f : Frame) : List Byte := f.length :: f.status :: f.payload

/-- The FrameBuffer at the front of a byte string, with the bytes after it (R91). -/
def decodeFrame (maxLength : Nat) : List Byte → Option (Frame × List Byte)
  | len :: st :: tl =>
    if maxLength + 1 ≤ tl.length then
      some ({ length := len, status := st, payload := tl.take (maxLength + 1) }, tl.drop (maxLength + 1))
    else none
  | _ => none

/-- A configuration record as its nine bytes (R97). -/
def ConfigRecord.bytes (c : ConfigRecord) : List Byte :=
  [c.pins.req, c.pins.rdy, c.pins.rst, c.pins.clk, c.pins.din, c.pins.dout, c.clkDiv, c.variant, c.flags]

/-- The configuration record at the front of a byte string, with the bytes after it (R97). -/
def decodeConfig : List Byte → Option (ConfigRecord × List Byte)
  | b0 :: b1 :: b2 :: b3 :: b4 :: b5 :: b6 :: b7 :: b8 :: tl =>
    some ({ pins := { req := b0, rdy := b1, rst := b2, clk := b3, din := b4, dout := b5 }
            clkDiv := b6, variant := b7, flags := b8 }, tl)
  | _ => none

/-- Unit 0x0 (R100): the application commands; functions 10 to 15 are undefined (R102). -/
def decodeCommand (maxLength : Nat) (op : Byte) (tl : List Byte) :
    Except DecodeError (Instr × List Byte) :=
  match opFunction op with
  | 0 => match decodeConfig tl with
    | some (c, rest) => .ok (.init c, rest)
    | none => .error (.truncated op)
  | 1 => match decodeFrame maxLength tl with
    | some (f, rest) => .ok (.send f, rest)
    | none => .error (.truncated op)
  | 2 => .ok (.tryReceive, tl)
  | 3 => .ok (.peekReceive, tl)
  | 4 => .ok (.rxqFull, tl)
  | 5 => .ok (.rxqEmpty, tl)
  | 6 => .ok (.txqFull, tl)
  | 7 => .ok (.txqEmpty, tl)
  | 8 => .ok (.flush, tl)
  | 9 => .ok (.pinReset, tl)
  | _ => .error (.undefinedCode op)

/-- The queue select of unit 0x1 (R98): `op[3]`, 0 = TXQ, 1 = RXQ. -/
def decodeQueueSel (op : Byte) : QueueSel := if op.getLsbD 3 then .rx else .tx

/-- Unit 0x1 (R98): `op[2:0]` is the queue function; 6 and 7 are reserved. -/
def decodeQueueOp (op : Byte) (tl : List Byte) : Except DecodeError (Instr × List Byte) :=
  match op.toNat % 8 with
  | 0 => .ok (.qInit (decodeQueueSel op), tl)
  | 1 => .ok (.qEnq (decodeQueueSel op), tl)
  | 2 => .ok (.qDeq (decodeQueueSel op), tl)
  | 3 => .ok (.qPeek (decodeQueueSel op), tl)
  | 4 => .ok (.qFull (decodeQueueSel op), tl)
  | 5 => .ok (.qEmpty (decodeQueueSel op), tl)
  | _ => .error (.undefinedCode op)

/-- Unit 0x2 (R100): line and wake operations. -/
def decodeLineOp (op : Byte) (tl : List Byte) : Except DecodeError (Instr × List Byte) :=
  match opFunction op with
  | 0 => .ok (.reqAssert, tl)
  | 1 => .ok (.reqDeassert, tl)
  | 2 => .ok (.rdyRead, tl)
  | 3 => .ok (.wakeArm, tl)
  | 4 => .ok (.wakeDisarm, tl)
  | 5 => .ok (.resetPulse, tl)
  | _ => .error (.undefinedCode op)

/-- Unit 0x3 (R100): the transfer engine and the scheduler. -/
def decodeEngineOp (op : Byte) (tl : List Byte) : Except DecodeError (Instr × List Byte) :=
  match opFunction op with
  | 0 => .ok (.transfer, tl)
  | 1 => .ok (.schedStep, tl)
  | _ => .error (.undefinedCode op)

/-- Unit 0x4 (R99): the event steps. -/
def decodeEvent (op : Byte) (tl : List Byte) : Except DecodeError (Instr × List Byte) :=
  match opFunction op with
  | 0 => .ok (.rdyFall, tl)
  | 1 => .ok (.rdyRise, tl)
  | 2 => .ok (.isrService, tl)
  | _ => .error (.undefinedCode op)

/-- The operation at the front of a byte string, with the bytes after it. Total: every byte string gives an
operation or a named error. Units 0x5 to 0xF are reserved (R95). -/
def decode (maxLength : Nat) : List Byte → Except DecodeError (Instr × List Byte)
  | [] => .error .noBytes
  | op :: tl =>
    match opUnit op with
    | 0 => decodeCommand maxLength op tl
    | 1 => decodeQueueOp op tl
    | 2 => decodeLineOp op tl
    | 3 => decodeEngineOp op tl
    | 4 => decodeEvent op tl
    | _ => .error (.undefinedCode op)

/-- The code of a queue operation (R98): unit 1, the select in bit 3, the function in bits 2 to 0. -/
def queueCode (q : QueueSel) (function : Nat) : Byte :=
  match q with
  | .tx => BitVec.ofNat 8 (0x10 + function)
  | .rx => BitVec.ofNat 8 (0x18 + function)

/-- The operation code `op` of each operation (R100). -/
def Instr.code : Instr → Byte
  | .init _ => 0x00#8
  | .send _ => 0x01#8
  | .tryReceive => 0x02#8
  | .peekReceive => 0x03#8
  | .rxqFull => 0x04#8
  | .rxqEmpty => 0x05#8
  | .txqFull => 0x06#8
  | .txqEmpty => 0x07#8
  | .flush => 0x08#8
  | .pinReset => 0x09#8
  | .qInit q => queueCode q 0
  | .qEnq q => queueCode q 1
  | .qDeq q => queueCode q 2
  | .qPeek q => queueCode q 3
  | .qFull q => queueCode q 4
  | .qEmpty q => queueCode q 5
  | .reqAssert => 0x20#8
  | .reqDeassert => 0x21#8
  | .rdyRead => 0x22#8
  | .wakeArm => 0x23#8
  | .wakeDisarm => 0x24#8
  | .resetPulse => 0x25#8
  | .transfer => 0x30#8
  | .schedStep => 0x31#8
  | .rdyFall => 0x40#8
  | .rdyRise => 0x41#8
  | .isrService => 0x42#8

/-- The operand bytes of each operation (R96): only INITIALIZE and SEND have any. -/
def Instr.operandBytes : Instr → List Byte
  | .init c => c.bytes
  | .send f => f.bytes
  | .tryReceive | .peekReceive | .rxqFull | .rxqEmpty
  | .txqFull | .txqEmpty | .flush | .pinReset
  | .qInit _ | .qEnq _ | .qDeq _ | .qPeek _ | .qFull _ | .qEmpty _
  | .reqAssert | .reqDeassert | .rdyRead | .wakeArm | .wakeDisarm | .resetPulse
  | .transfer | .schedStep | .rdyFall | .rdyRise | .isrService => []

/-- The bytes of an operation (R94, R96). -/
def encode (i : Instr) : List Byte := i.code :: i.operandBytes

/-- The bytes of a table word: bit 0 of `w` is the least significant bit of the first byte, a later byte's bits
count on from it. -/
def tableBytes (nbits w : Nat) : List Byte :=
  (List.range (nbits / 8)).map fun i => BitVec.ofNat 8 (w / 2 ^ (8 * i))

/-- How many bytes an operation with code `op` takes after it (R96). -/
def operandLength (maxLength : Nat) (op : Byte) : Nat :=
  if op = 0x00#8 then 9 else if op = 0x01#8 then maxLength + 3 else 0

/-- A table word as a whole operation: its bytes, and operand bytes of zeros where the table gives the operand no
bits (R96). -/
def tableWordBytes (maxLength nbits w : Nat) : List Byte :=
  let bs := tableBytes nbits w
  bs ++ List.replicate (operandLength maxLength (bs.headD 0) + 1 - bs.length) 0

/-- The instruction the decoder reads from a table word, operand bytes zero, in the build of `State.reset`. -/
def decodeTableWord (nbits w : Nat) : Option Instr :=
  match decode Config.exampleParams.maxLength (tableWordBytes Config.exampleParams.maxLength nbits w) with
  | .ok (i, _) => some i
  | .error _ => none

end Sys2Proof
end

