-- ==== Sys2Proof/Machine/State.lean ====
section
/-! DEFINITION. The state of the transport core (10_state.md R20), as plain data, the reasons a step can stop, and the
state at power-on (R49, R270). The first part of `State` is the spec's list R20, element by element; the
second part, marked so, is the environment's (R11, R12) and the model's own. -/

namespace Sys2Proof.Machine

open Sys2Proof

/-- Response and condition codes (R107). -/
inductive Code where
  | ok
  | rejFull
  | rejLength
  | rejEmpty
  | errConfig
  | errUndefOp
  | errNotInit
  | errAlreadyInit
  | fatalRxOverrun
deriving DecidableEq, Repr

/-- The response record (R106). `frame` is absent unless the command is TRY_RECEIVE or PEEK_RECEIVE with code OK (V4). -/
structure Response where
  code : Code
  flag : Bool
  frame : Option Frame
deriving DecidableEq, Repr

/-- The line identifiers of TRACE (R48): REQ, RDY and RST stand for CFG.pin_req, CFG.pin_rdy, CFG.pin_rst. -/
inductive LineId where
  | req
  | rdy
  | rst
deriving DecidableEq, Repr

/-- The direction modes INITIALIZE uses (R202). -/
inductive DirMode where
  | input
  | output
deriving DecidableEq, Repr

/-- The edge polarity of `arm`; always FALLING (R145). -/
inductive Polarity where
  | falling
deriving DecidableEq, Repr

/-- One event of TRACE (R12, R48). -/
inductive Event where
  | xchg (out reply : Byte)
  | write (id : LineId) (v : Bool)
  | read (id : LineId) (v : Bool)
  | dir (id : LineId) (mode : DirMode)
  | delay (n : Nat)
  | arm (pol : Polarity)
  | disarm
  | busConfig (clkDiv : Byte)
  | halt (code : Byte)
  | resp (op : Byte) (r : Response)
deriving DecidableEq, Repr

/-- A BoundedQueue (R25): `head`, `tail` and `count` are natural numbers held in 8 bits (R129, log entry 15). -/
structure Queue where
  slots : List Frame
  head : Nat
  tail : Nat
  count : Nat
deriving DecidableEq, Repr

/-- CFG (R32). -/
structure Cfg where
  pins : Pins
  clkDiv : Byte
  variant : Byte
  irqMode : Bool
  debugEcho : Bool
deriving DecidableEq, Repr

/-- LINE (R35 to R37). `req`: 1 = asserted. `ready`: 1 = ready, owned by COP. `rst`: the level last written, or
unwritten. -/
structure Lines where
  req : Bool
  ready : Bool
  rst : Option Bool
deriving DecidableEq, Repr

/-- WAKE (R38, R39). -/
structure Wake where
  armed : Bool
  pending : Bool
deriving DecidableEq, Repr

/-- TE.phase (R43). -/
inductive TePhase where
  | idle
  | req
  | len
  | first
  | neg
  | payload
  | release
deriving DecidableEq, Repr

/-- The transfer engine's registers (R42). `m` and `k` are numbers held in one byte (log entry 15). -/
structure Engine where
  phase : TePhase
  out : Frame
  rx : Frame
  d : Byte
  m : Nat
  k : Nat
deriving DecidableEq, Repr

/-- FG.phase (R45). -/
inductive FgPhase where
  | idle
  | send2
  | tryRx2
  | tryRx3
deriving DecidableEq, Repr

/-- The foreground micro-sequencer (R44). -/
structure Foreground where
  phase : FgPhase
  wasFull : Bool
  res : Response
deriving DecidableEq, Repr

/-- Who takes the next atomic step (R10, R73). MODEL's own (log entry 6). -/
inductive Turn where
  /-- the foreground: its next micro-step, or the next command at the port -/
  | fg
  /-- an operation taken by its code outside the command port: COP's RDY_FALL 0x40 and RDY_RISE 0x41, IRQ's
  ISR_SERVICE 0x42 (R99), or a direct call of an internal operation (R105) -/
  | op (code : Byte)
deriving DecidableEq, Repr

/-- What an internal operation hands back to its caller (the result column of R100). MODEL's own (log entry 13). -/
structure CallResult where
  bit : Option Bool
  frame : Option Frame
  count : Option Nat
deriving DecidableEq, Repr

/-- The result of an operation that hands nothing back. -/
def CallResult.none : CallResult := { bit := Option.none, frame := Option.none, count := Option.none }

/-- The state. -/
structure State where
  /-- the build's parameters (R8); no step writes them -/
  par : Params
  /-- TXQ (R25, R28) -/
  txq : Queue
  /-- RXQ (R25, R29) -/
  rxq : Queue
  /-- CFG (R32) -/
  cfg : Cfg
  /-- LINE.req, LINE.ready, LINE.rst (R35, R36, R37) -/
  line : Lines
  /-- WAKE.armed, WAKE.pending (R38, R39) -/
  wake : Wake
  /-- INITIALIZED (R40) -/
  inited : Bool
  /-- HALTED (R41) -/
  halted : Bool
  /-- TE (R42) -/
  te : Engine
  /-- FG (R44) -/
  fg : Foreground
  /-- OPFRAME (R46) -/
  opframe : Frame
  /-- OPCFG (R46) -/
  opcfg : ConfigRecord
  /-- RESP (R46, R106) -/
  resp : Response
  /-- TRACE (R48), oldest first -/
  trace : List Event
  /-- ENVIRONMENT: the bytes presented at the command port and not yet accepted, oldest first (R94; log entry 7) -/
  port : List Byte
  /-- ENVIRONMENT: whose turn the next steps are, next first (R73; log entry 6) -/
  turns : List Turn
  /-- ENVIRONMENT: the reply bytes COP gives to the next exchanges, next first (R11; log entry 9) -/
  replies : List Byte
  /-- MODEL: how many free reply bytes have been drawn (log entry 9) -/
  drawn : Nat
  /-- MODEL: what the last directly called internal operation handed back (R105; log entry 13) -/
  result : CallResult
deriving DecidableEq, Repr

/-- Why a step stops. -/
inductive Fault where
  /-- HALTED = 1: no agent of the block has a step (R236, V9). Raised by every step of FG and of IRQ and by every direct
  call of an internal operation; COP's line steps still run. Safe: the spec calls the halted state a fault
  state. -/
  | halted
  /-- a command is issued while another is in flight: the host has no such move (R200, V10). Raised by the meanings of
  the ten commands; no step that takes its command from the port reaches it. Safe: the model stops. -/
  | commandInFlight
  /-- the turn list names a code that is no operation of R100, or one whose operand only the port supplies: no agent has
  such a step. Raised by the fetch. Safe: the model stops. -/
  | noSuchOperation
deriving DecidableEq, Repr

/-- Why an instruction has no meaning. -/
inductive Refusal where
  /-- an instruction of the table this model gives no meaning. Raised by no arm: every operation has its meaning. Safe. -/
  | notModelled (mnemonic : String)
deriving DecidableEq, Repr

/-- The three outcomes of one step of this machine. -/
abbrev Outcome := Host.Outcome State Fault Refusal

/-- The value of a queue at power-on. R49 and R270 leave it unspecified; DESIGN CHOICE, log entry 3. -/
def Queue.powerOn (p : Params) : Queue :=
  { slots := List.replicate p.capacity (Frame.zero p.maxLength), head := 0, tail := 0, count := 0 }

/-- The value of the response record at power-on. R49 leaves it unspecified; DESIGN CHOICE, log entry 4. -/
def Response.powerOn : Response := { code := .ok, flag := false, frame := none }

/-- All pins zero. DESIGN CHOICE, log entry 4. -/
def pinsPowerOn : Pins := { req := 0, rdy := 0, rst := 0, clk := 0, din := 0, dout := 0 }

/-- The power-on state of a build with parameters `p` (R49, R270). Stated by the spec: INITIALIZED = 0, HALTED = 0,
WAKE.armed = 0, WAKE.pending = 0, TE.phase = T_IDLE, FG.phase = F_IDLE, TRACE empty, LINE.rst unwritten. Left
unspecified by the spec and named in log entries 3, 4 and 5: every other field of R20. -/
def State.powerOn (p : Params) : State where
  par := p
  txq := Queue.powerOn p
  rxq := Queue.powerOn p
  cfg := { pins := pinsPowerOn, clkDiv := 0, variant := 0, irqMode := false, debugEcho := false }
  line := { req := false, ready := false, rst := none }
  wake := { armed := false, pending := false }
  inited := false
  halted := false
  te := { phase := .idle, out := Frame.zero p.maxLength, rx := Frame.zero p.maxLength, d := 0, m := 0, k := 0 }
  fg := { phase := .idle, wasFull := false, res := Response.powerOn }
  opframe := Frame.zero p.maxLength
  opcfg := { pins := pinsPowerOn, clkDiv := 0, variant := 0, flags := 0 }
  resp := Response.powerOn
  trace := []
  port := []
  turns := []
  replies := []
  drawn := 0
  result := CallResult.none

/-- The machine right after power-on, in the example build of `Config.exampleParams` (log entry 1). -/
def State.reset : State := State.powerOn Config.exampleParams

end Sys2Proof.Machine
end

