-- ==== Sys2Proof/Machine/Flags.lean ====
section
/-! DEFINITION. The flags: computed from the state, with no storage of their own. -/

namespace Sys2Proof.Machine

open Sys2Proof

/-- `Q.FULL = (Q.count == CAPACITY)` (R27). -/
def Queue.full (capacity : Nat) (q : Queue) : Bool := q.count == capacity

/-- `Q.EMPTY = (Q.count == 0)` (R27). -/
def Queue.empty (q : Queue) : Bool := q.count == 0

/-- The queue the select `q` names (R98). -/
def State.queue (s : State) : QueueSel → Queue
  | .tx => s.txq
  | .rx => s.rxq

/-- Q_FULL q (R125). -/
def State.qFull (q : QueueSel) (s : State) : Bool := (s.queue q).full s.par.capacity

/-- Q_EMPTY q (R126). -/
def State.qEmpty (q : QueueSel) (s : State) : Bool := (s.queue q).empty

/-- ISR_SERVICE is enabled "exactly when INITIALIZED = 1 and HALTED = 0 and WAKE.armed = 1 and WAKE.pending = 1" (R186). -/
def State.isrEnabled (s : State) : Bool :=
  s.inited && !s.halted && s.wake.armed && s.wake.pending

/-- The number of each condition (R107). -/
def Code.toByte : Code → Byte
  | .ok => 0x00#8
  | .rejFull => 0x01#8
  | .rejLength => 0x02#8
  | .rejEmpty => 0x03#8
  | .errConfig => 0x04#8
  | .errUndefOp => 0x05#8
  | .errNotInit => 0x06#8
  | .errAlreadyInit => 0x07#8
  | .fatalRxOverrun => 0x80#8

end Sys2Proof.Machine
end

