-- ==== Sys2Proof/Machine/Operands.lean ====
section
/-! DEFINITION. Operand forms: the configuration record and its validity, the bytes of a frame, the register an internal
operation takes its frame from, the response record as bytes. -/

namespace Sys2Proof.Machine

open Sys2Proof

/-- `ValidConfig(c)` "is true exactly when `c.variant` is 0 or 1, and `c.flags[7:2]` is zero, and
`PinAssignmentValid(c)` is true" (R203). -/
def validConfig (p : Params) (c : ConfigRecord) : Bool :=
  decide (c.variant.toNat ≤ 1) && c.reservedFlags == 0 && p.pinAssignmentValid c.pins

/-- What `CFG <- OPCFG` stores (R32, R97). -/
def cfgOf (c : ConfigRecord) : Cfg :=
  { pins := c.pins, clkDiv := c.clkDiv, variant := c.variant, irqMode := c.irqMode, debugEcho := c.debugEcho }

/-- `f.payload[j]` (R14). Beyond the array the byte is a free value (log entry 14); R62: no rule reads there. -/
def payloadByte (f : Frame) (j : Nat) : Byte := f.payload.getD j (Config.freePayload j)

/-- `f.payload[j] <- b` (R14). -/
def setPayloadByte (f : Frame) (j : Nat) (b : Byte) : Frame := { f with payload := f.payload.set j b }

/-- The frame operand of Q_ENQ (R122): OPFRAME on TXQ, where SEND calls it (R46); TE.rx on RXQ, where SCHED_STEP calls it. -/
def enqOperand (q : QueueSel) (s : State) : Frame :=
  match q with
  | .tx => s.opframe
  | .rx => s.te.rx

/-- A response as bytes (R106): `code`, one byte 0x00 or 0x01 for `flag`, then the frame when meaningful. -/
def responseBytes (r : Response) : List Byte :=
  r.code.toByte :: (if r.flag then 0x01#8 else 0x00#8) :: (match r.frame with
    | some f => f.bytes
    | none => [])

end Sys2Proof.Machine
end

