-- ==== Sys2Proof/Machine/Ops.lean ====
section
/-! DEFINITION. The named operations every meaning is built from: TRACE, the response, the queues, the lines, the wake
mechanism, the bus exchange, and what this hardware has in place of exceptions: the refusal, the fatal halt
and the wake interrupt's entry and return. -/

namespace Sys2Proof.Machine

open Sys2Proof

/-! ### TRACE and the response -/

/-- Append one event to TRACE (R48). -/
def emit (e : Event) (s : State) : State := { s with trace := s.trace ++ [e] }

/-- `respond(code, flag, frame)`: write RESP, append `EvResp(op, RESP)`, set FG.phase to F_IDLE (R15, R200). -/
def respondWith (op : Byte) (r : Response) (s : State) : State :=
  emit (.resp op r) { s with resp := r, fg := { s.fg with phase := .idle } }

/-- `respond` with its three arguments written out. -/
def respond (op : Byte) (code : Code) (flag : Bool) (frame : Option Frame) (s : State) : State :=
  respondWith op { code := code, flag := flag, frame := frame } s

/-! ### Conditions: the refusal, the fatal halt, the wake interrupt -/

/-- A rejection or refusal "responds and changes nothing else" (R15, R235): RESP = (code, 0), no frame. -/
def reject (op : Byte) (code : Code) (s : State) : State := respond op code false none s

/-- FATAL_RX_OVERRUN (R190, R236): `HALTED <- 1; append EvHalt(0x80)`; nothing else. -/
def fatalHalt (s : State) : State := emit (.halt Code.fatalRxOverrun.toByte) { s with halted := true }

/-- Entry into the interrupt context (R242): `WAKE.pending <- 0`; nothing is saved and nothing is switched. -/
def irqEnter (s : State) : State := { s with wake := { s.wake with pending := false } }

/-- Return from the interrupt context (R243): no return instruction and nothing to restore. -/
def irqReturn (s : State) : State := s

/-! ### Queues (R121 to R124) -/

/-- Replace the queue `q`. -/
def setQueue (q : QueueSel) (v : Queue) (s : State) : State :=
  match q with
  | .tx => { s with txq := v }
  | .rx => { s with rxq := v }

/-- Q_INIT q (R121): the indices to 0; the slots keep their bytes (R31). -/
def initQueue (q : QueueSel) (s : State) : State :=
  setQueue q { s.queue q with head := 0, tail := 0, count := 0 } s

/-- The queue after a successful enqueue of `f` (R122). -/
def Queue.push (capacity : Nat) (f : Frame) (v : Queue) : Queue :=
  { v with slots := v.slots.set v.tail f, tail := (v.tail + 1) % capacity, count := v.count + 1 }

/-- The queue after a successful dequeue (R123): the vacated slot keeps its bytes. -/
def Queue.pop (capacity : Nat) (v : Queue) : Queue :=
  { v with head := (v.head + 1) % capacity, count := v.count - 1 }

/-- The frame in the slot at `head` (R61). The default stands for no slot of a queue whose `head` is below CAPACITY (log
entry 24). -/
def Queue.front (maxLength : Nat) (v : Queue) : Frame := v.slots.getD v.head (Frame.zero maxLength)

/-- Q_ENQ q, f (R122): whether it was stored, and the state after. -/
def enqueue (q : QueueSel) (f : Frame) (s : State) : Bool × State :=
  if s.qFull q then (false, s) else (true, setQueue q ((s.queue q).push s.par.capacity f) s)

/-- Q_DEQ q (R123): the oldest frame, if any, and the state after. -/
def dequeue (q : QueueSel) (s : State) : Option Frame × State :=
  if s.qEmpty q then (none, s)
  else (some ((s.queue q).front s.par.maxLength), setQueue q ((s.queue q).pop s.par.capacity) s)

/-- Q_PEEK q (R124): the oldest frame, if any; no state changes. -/
def peek (q : QueueSel) (s : State) : Option Frame :=
  if s.qEmpty q then none else some ((s.queue q).front s.par.maxLength)

/-! ### Lines and the wake mechanism (R142 to R147) -/

/-- REQ_ASSERT (R142). -/
def reqAssert (s : State) : State := emit (.write .req true) { s with line := { s.line with req := true } }

/-- REQ_DEASSERT (R143). -/
def reqDeassert (s : State) : State := emit (.write .req false) { s with line := { s.line with req := false } }

/-- RDY_READ (R144): the level, and the state with the read recorded. -/
def rdyRead (s : State) : Bool × State := (s.line.ready, emit (.read .rdy s.line.ready) s)

/-- WAKE_ARM (R145). -/
def wakeArm (s : State) : State :=
  emit (.arm .falling)
    { s with wake := { armed := true, pending := s.wake.pending || (s.par.armSamplesLevel && s.line.ready) } }

/-- WAKE_DISARM (R146). -/
def wakeDisarm (s : State) : State := emit .disarm { s with wake := { armed := false, pending := false } }

/-- RESET_PULSE (R147): variant 0 writes 1, 0, 1; variant 1 writes 1, delays, writes 0. The levels and the delay are opaque
event arguments (V12, log entry 18). -/
def resetPulse (s : State) : State :=
  if s.cfg.variant = 0x00#8 then
    { emit (.write .rst true) (emit (.write .rst false) (emit (.write .rst true) s)) with
      line := { s.line with rst := some true } }
  else
    { emit (.write .rst false) (emit (.delay s.par.tResetLong) (emit (.write .rst true) s)) with
      line := { s.line with rst := some false } }

/-! ### The bus exchange (R15) -/

/-- The byte COP answers next (R11): the next of the environment's list, or a free value (log entry 9). -/
def nextReply (s : State) : Byte :=
  match s.replies with
  | r :: _ => r
  | [] => Config.freeReply s.drawn

/-- The state once that byte is taken. -/
def takeReply (s : State) : State :=
  match s.replies with
  | _ :: rs => { s with replies := rs }
  | [] => { s with drawn := s.drawn + 1 }

/-- `Xchg(b)`: the state after it; the reply is `nextReply s`. Appends `EvXchg(b, reply)` (R15). -/
def xchg (b : Byte) (s : State) : State := emit (.xchg b (nextReply s)) (takeReply s)

/-! ### How operations are invoked -/

/-- A direct call of an internal operation (R105, log entry 13). In a halted block no agent has a step (R236). -/
def direct (op : State → CallResult × State) (s : State) : Outcome :=
  if s.halted then .fault .halted else .next { (op s).2 with result := (op s).1 }

/-- An internal operation that hands nothing back. -/
def noResult (op : State → State) (s : State) : CallResult × State := (CallResult.none, op s)

/-- The common prologue of the ten commands (R201), after the code itself has been found defined, and before it the rule
that a command is accepted only in F_IDLE (R200). -/
def accept (op : Byte) (body : State → State) (s : State) : Outcome :=
  if s.halted then .fault .halted
  else if s.fg.phase ≠ .idle then .fault .commandInFlight
  else if op ≠ 0x00#8 ∧ s.inited = false then .next (reject op .errNotInit s)
  else if op = 0x00#8 ∧ s.inited = true then .next (reject op .errAlreadyInit s)
  else .next (body s)

end Sys2Proof.Machine
end

