-- ==== Sys2Proof/Machine/Transfer.lean ====
section
/-! DEFINITION. The transfer engine (42_transfer_engine.md R161), one definition per phase of R43. L stands for
TE.out.length. -/

namespace Sys2Proof.Machine

open Sys2Proof

/-- L, the length of the latched outgoing frame. -/
def State.outLen (s : State) : Nat := s.te.out.length.toNat

/-- T_IDLE -> T_REQ: `TE.out <- out; TE.rx <- all bytes 0x00`. -/
def teLatch (out : Frame) (s : State) : State :=
  { s with te := { s.te with out := out, rx := Frame.zero s.par.maxLength, phase := .req } }

/-- Step 1 (R162), T_REQ -> T_LEN: assert the request line. -/
def teRequest (s : State) : State :=
  let t := reqAssert s
  { t with te := { t.te with phase := .len } }

/-- Step 2 (R163), T_LEN -> T_FIRST: send L; the reply is `rx.status`. -/
def teLength (s : State) : State :=
  let t := xchg s.te.out.length s
  { t with te := { t.te with rx := { t.te.rx with status := nextReply s }, phase := .first } }

/-- The byte sent at position 1 (R164): `payload[1]`, or 0x00 when L = 0. -/
def firstByte (out : Frame) : Byte := if out.length = 0x00#8 then 0x00#8 else payloadByte out 1

/-- Step 3 (R164), T_FIRST -> T_NEG: the reply is D, stored in TE.d and in `rx.payload[0]`. -/
def teFirst (s : State) : State :=
  let t := xchg (firstByte s.te.out) s
  { t with te := { t.te with d := nextReply s, rx := setPayloadByte t.te.rx 0 (nextReply s), phase := .neg } }

/-- Steps 4 and 5 (R165, R166): `max_bytes` before and after the clamp. -/
def negotiate (maxLength L D : Nat) : Nat := min (if L = 0 then D else max D (L - 1)) maxLength

/-- Steps 4 and 5, T_NEG -> T_PAYLOAD: TE.m and `rx.length = min(D, MAX_LENGTH)` (R169). -/
def teNegotiate (s : State) : State :=
  { s with te := { s.te with
      m := negotiate s.par.maxLength s.outLen s.te.d.toNat
      rx := { s.te.rx with length := BitVec.ofNat 8 (min s.te.d.toNat s.par.maxLength) }
      phase := .payload } }

/-- The byte sent at position 1 + k (R167): `payload[1 + k]` while 1 + k <= L, then the pad 0x00. -/
def furtherByte (out : Frame) (k : Nat) : Byte :=
  if 1 + k ≤ out.length.toNat then payloadByte out (1 + k) else 0x00#8

/-- Step 6 (R167), one further byte pair: the reply is `rx.payload[k]`. -/
def tePayload (k : Nat) (s : State) : State :=
  let t := xchg (furtherByte s.te.out k) s
  { t with te := { t.te with k := k, rx := setPayloadByte t.te.rx k (nextReply s) } }

/-- Step 6: `n` further byte pairs from index `k` on. -/
def tePayloads : Nat → Nat → State → State
  | 0, _, s => s
  | n + 1, k, s => tePayloads n (k + 1) (tePayload k s)

/-- Step 7 (R168), T_PAYLOAD -> T_RELEASE -> T_IDLE: deassert the request line. -/
def teRelease (s : State) : State :=
  let t := reqDeassert { s with te := { s.te with phase := .release } }
  { t with te := { t.te with phase := .idle } }

/-- Step 6 whole: TE.m further byte pairs, from index 1. -/
def tePayloadPhase (s : State) : State := tePayloads s.te.m 1 s

/-- TRANSFER out (R161): one handshake cycle. Afterwards TE.rx is the received frame and TE.m the count (step 8, R170). -/
def runTransfer (out : Frame) (s : State) : State :=
  teRelease (tePayloadPhase (teNegotiate (teFirst (teLength (teRequest (teLatch out s))))))

/-- TRANSFER called on its own (R105): the operand is OPFRAME (R46), which the cycle latches in TE.out (R161) and sends from
there (R96, R100); the result is the received frame and the count m. -/
def execTransfer (s : State) : Outcome :=
  direct (fun t =>
    ({ CallResult.none with
        frame := some (runTransfer t.opframe t).te.rx
        count := some (runTransfer t.opframe t).te.m }, runTransfer t.opframe t)) s

end Sys2Proof.Machine
end

