-- ==== Sys2Proof/Machine/Scheduler.lean ====
section
/-! DEFINITION. The scheduler step and the event steps (43_scheduler.md). -/

namespace Sys2Proof.Machine

open Sys2Proof

/-- Re-arm (R185): assert the request line when RXQ has room and TXQ is not empty. -/
def rearm (s : State) : State := if !s.qFull .rx && !s.qEmpty .tx then reqAssert s else s

/-- Capacity edge (R185): in interrupt-driven mode disarm the wake mechanism when RXQ is full. -/
def capacityEdge (s : State) : State := if s.cfg.irqMode && s.qFull .rx then wakeDisarm s else s

/-- What follows the cycle (R184, R190): a frame with a nonzero declared length is enqueued in RXQ, an enqueue that fails
is fatal and ends the step, and otherwise Re-arm and Capacity edge follow. -/
def afterCycle (s : State) : State :=
  if payloadByte s.te.rx 0 ≠ 0x00#8 then
    if (enqueue .rx s.te.rx s).1 then capacityEdge (rearm (enqueue .rx s.te.rx s).2)
    else fatalHalt s
  else capacityEdge (rearm s)

/-- Transfer (R184): dequeue one frame from TXQ, or take NULL_FRAME when it is empty, and run the cycle. -/
def transferStage (s : State) : State :=
  afterCycle (runTransfer ((dequeue .tx s).1.getD (Frame.zero s.par.maxLength)) (dequeue .tx s).2)

/-- Ready-line check (R183) and what follows it: not ready means no transfer, and a request only when TXQ is not empty. -/
def readyCheck (s : State) : State :=
  if (rdyRead s).1 then transferStage (rdyRead s).2
  else if s.qEmpty .tx then (rdyRead s).2
  else reqAssert (rdyRead s).2

/-- SCHED_STEP (R181), from the Guard (R182) on. -/
def runSchedStep (s : State) : State := if s.qFull .rx then s else readyCheck s

/-- SCHED_STEP called on its own (R105). -/
def execSchedStep (s : State) : Outcome := direct (noResult runSchedStep) s

/-- RDY_FALL (R187), COP's step when LINE.ready = 0: the level changes, and the edge is latched when the wake mechanism is
armed. When LINE.ready = 1 COP has no such step and the turn passes (log entry 10). -/
def execRdyFall (s : State) : Outcome :=
  if s.line.ready then .next s
  else .next { s with
    line := { s.line with ready := true }
    wake := { s.wake with pending := s.wake.pending || s.wake.armed } }

/-- RDY_RISE (R188), COP's step when LINE.ready = 1; a pending wake stays pending. When LINE.ready = 0 the turn passes (log
entry 10). -/
def execRdyRise (s : State) : Outcome :=
  if s.line.ready then .next { s with line := { s.line with ready := false } } else .next s

/-- ISR_SERVICE (R186): enter the interrupt context, run SCHED_STEP, return. In a halted block IRQ has no step (R236); when
it is otherwise not enabled the turn passes (log entry 10). -/
def execIsrService (s : State) : Outcome :=
  if s.halted then .fault .halted
  else if s.isrEnabled then .next (irqReturn (runSchedStep (irqEnter s)))
  else .next s

end Sys2Proof.Machine
end

