-- ==== Sys2Proof/Machine/Application.lean ====
section
/-! DEFINITION. The ten application commands (44_application_api.md). `exec<Command>` is the step that accepts the command:
its prologue (R201) and its first micro-step. The later micro-steps of SEND and TRY_RECEIVE are the
foreground's next steps (`fgMicroStep`), between which other agents may move (R200). -/

namespace Sys2Proof.Machine

open Sys2Proof

/-! ### INITIALIZE -/

/-- `Dir(REQ, output); Dir(RDY, input); Dir(RST, output)` (R202). -/
def setDirections (s : State) : State :=
  emit (.dir .rst .output) (emit (.dir .rdy .input) (emit (.dir .req .output) s))

/-- `CFG <- OPCFG; BusConfig(CFG.clk_div); Q_INIT(TXQ); Q_INIT(RXQ)` (R202). -/
def initStore (s : State) : State :=
  initQueue .rx (initQueue .tx (emit (.busConfig s.opcfg.clkDiv) { s with cfg := cfgOf s.opcfg }))

/-- The line actions of INITIALIZE, in the order of R202. -/
def initLines (s : State) : State :=
  emit (.delay s.par.tInitSettle) (reqDeassert (resetPulse (setDirections s)))

/-- `if CFG.irq_mode == 1 then call WAKE_ARM` (R202, R211). -/
def armIfIrq (s : State) : State := if s.cfg.irqMode then wakeArm s else s

/-- INITIALIZE's single micro-step (R202). -/
def initBody (s : State) : State :=
  if validConfig s.par s.opcfg then
    respond 0x00#8 .ok true none { armIfIrq (initLines (initStore s)) with inited := true }
  else reject 0x00#8 .errConfig s

/-- INITIALIZE (R202). The operand is latched in OPCFG as the command is presented (R46, log entry 7). -/
def execInit (c : ConfigRecord) (s : State) : Outcome :=
  accept 0x00#8 initBody { s with opcfg := c }

/-! ### SEND -/

/-- SEND micro-step 1 (R204): REJ_LENGTH, then REJ_FULL, then the frame is in TXQ and micro-step 2 remains. -/
def sendStep1 (s : State) : State :=
  if s.par.maxLength < s.opframe.length.toNat then reject 0x01#8 .rejLength s
  else if (enqueue .tx s.opframe s).1 then
    let t := (enqueue .tx s.opframe s).2
    { t with fg := { t.fg with phase := .send2 } }
  else reject 0x01#8 .rejFull s

/-- SEND micro-step 2 (R204). -/
def sendStep2 (s : State) : State :=
  respond 0x01#8 .ok true none (if s.par.sendAssertsReq && !s.qFull .rx then reqAssert s else s)

/-- SEND (R204). The operand is latched in OPFRAME as the command is presented (R46, log entry 7). -/
def execSend (f : Frame) (s : State) : Outcome := accept 0x01#8 sendStep1 { s with opframe := f }

/-! ### TRY_RECEIVE -/

/-- TRY_RECEIVE micro-step 1 (R205): the poll tick in poll mode. A tick that halts ends the step (R190). -/
def tryRxStep1 (s : State) : State :=
  let t := if s.cfg.irqMode then s else runSchedStep s
  if t.halted then t else { t with fg := { t.fg with phase := .tryRx2 } }

/-- TRY_RECEIVE micro-step 2 (R205): sample RXQ.FULL and dequeue in one atomic step. -/
def tryRxStep2 (s : State) : State :=
  let t := { (dequeue .rx s).2 with fg := { s.fg with wasFull := s.qFull .rx } }
  match (dequeue .rx s).1 with
  | none => reject 0x02#8 .rejEmpty t
  | some f => { t with fg := { t.fg with res := { code := .ok, flag := true, frame := some f }, phase := .tryRx3 } }

/-- The second half of the Capacity edge (R185, R205): arm, and assert the request line when TXQ is not empty. -/
def reopen (s : State) : State :=
  if (wakeArm s).qEmpty .tx then wakeArm s else reqAssert (wakeArm s)

/-- TRY_RECEIVE micro-step 3 (R205). -/
def tryRxStep3 (s : State) : State :=
  respondWith 0x02#8 s.fg.res (if s.cfg.irqMode && s.fg.wasFull then reopen s else s)

/-- TRY_RECEIVE (R205). -/
def execTryReceive (s : State) : Outcome := accept 0x02#8 tryRxStep1 s

/-! ### PEEK_RECEIVE and the queries -/

/-- PEEK_RECEIVE's single micro-step (R206). -/
def peekBody (s : State) : State :=
  match peek .rx s with
  | some f => respond 0x03#8 .ok true (some f) s
  | none => reject 0x03#8 .rejEmpty s

/-- PEEK_RECEIVE (R206). -/
def execPeekReceive (s : State) : Outcome := accept 0x03#8 peekBody s

/-- RXQ_FULL (R207). -/
def execRxqFull (s : State) : Outcome := accept 0x04#8 (fun t => respond 0x04#8 .ok (t.qFull .rx) none t) s

/-- RXQ_EMPTY (R208). -/
def execRxqEmpty (s : State) : Outcome := accept 0x05#8 (fun t => respond 0x05#8 .ok (t.qEmpty .rx) none t) s

/-- TXQ_FULL (R209). -/
def execTxqFull (s : State) : Outcome := accept 0x06#8 (fun t => respond 0x06#8 .ok (t.qFull .tx) none t) s

/-- TXQ_EMPTY (R210). -/
def execTxqEmpty (s : State) : Outcome := accept 0x07#8 (fun t => respond 0x07#8 .ok (t.qEmpty .tx) none t) s

/-! ### FLUSH and PIN_RESET -/

/-- `if CFG.irq_mode == 1 then call WAKE_DISARM` (R211). -/
def disarmIfIrq (s : State) : State := if s.cfg.irqMode then wakeDisarm s else s

/-- FLUSH's single micro-step (R211). -/
def flushBody (s : State) : State :=
  respond 0x08#8 .ok true none (armIfIrq (initQueue .rx (initQueue .tx (disarmIfIrq s))))

/-- FLUSH (R211). -/
def execFlush (s : State) : Outcome := accept 0x08#8 flushBody s

/-- PIN_RESET (R212). -/
def execPinReset (s : State) : Outcome := accept 0x09#8 (fun t => respond 0x09#8 .ok true none (resetPulse t)) s

/-! ### The foreground's later micro-steps -/

/-- The next micro-step of the command in flight (R45, R200); none in F_IDLE. -/
def fgMicroStep (s : State) : State :=
  match s.fg.phase with
  | .idle => s
  | .send2 => sendStep2 s
  | .tryRx2 => tryRxStep2 s
  | .tryRx3 => tryRxStep3 s

end Sys2Proof.Machine
end

