-- ==== Sys2Proof/Machine/LineController.lean ====
section
/-! DEFINITION. The line and wake operations called on their own (41_line_controller.md, R105). -/

namespace Sys2Proof.Machine

open Sys2Proof

/-- REQ_ASSERT (R142). -/
def execReqAssert (s : State) : Outcome := direct (noResult reqAssert) s

/-- REQ_DEASSERT (R143). -/
def execReqDeassert (s : State) : Outcome := direct (noResult reqDeassert) s

/-- RDY_READ (R144): the result is the level. -/
def execRdyRead (s : State) : Outcome :=
  direct (fun t => ({ CallResult.none with bit := some (rdyRead t).1 }, (rdyRead t).2)) s

/-- WAKE_ARM (R145). -/
def execWakeArm (s : State) : Outcome := direct (noResult wakeArm) s

/-- WAKE_DISARM (R146). -/
def execWakeDisarm (s : State) : Outcome := direct (noResult wakeDisarm) s

/-- RESET_PULSE (R147). -/
def execResetPulse (s : State) : Outcome := direct (noResult resetPulse) s

end Sys2Proof.Machine
end

