-- ==== Sys2Proof/Machine/Queues.lean ====
section
/-! DEFINITION. The six BoundedQueue operations called on their own (40_queue.md, R105). -/

namespace Sys2Proof.Machine

open Sys2Proof

/-- Q_INIT q (R121). -/
def execQInit (q : QueueSel) (s : State) : Outcome := direct (noResult (initQueue q)) s

/-- Q_ENQ q (R122): the frame is OPFRAME on TXQ and TE.rx on RXQ; the result is the ok bit. -/
def execQEnq (q : QueueSel) (s : State) : Outcome :=
  direct (fun t => ({ CallResult.none with bit := some (enqueue q (enqOperand q t) t).1 },
    (enqueue q (enqOperand q t) t).2)) s

/-- Q_DEQ q (R123): the result is the ok bit and the frame. -/
def execQDeq (q : QueueSel) (s : State) : Outcome :=
  direct (fun t => ({ CallResult.none with bit := some (dequeue q t).1.isSome, frame := (dequeue q t).1 },
    (dequeue q t).2)) s

/-- Q_PEEK q (R124): the result is the ok bit and the frame. -/
def execQPeek (q : QueueSel) (s : State) : Outcome :=
  direct (fun t => ({ CallResult.none with bit := some (peek q t).isSome, frame := peek q t }, t)) s

/-- Q_FULL q (R125): the result is the flag. -/
def execQFull (q : QueueSel) (s : State) : Outcome :=
  direct (fun t => ({ CallResult.none with bit := some (t.qFull q) }, t)) s

/-- Q_EMPTY q (R126): the result is the flag. -/
def execQEmpty (q : QueueSel) (s : State) : Outcome :=
  direct (fun t => ({ CallResult.none with bit := some (t.qEmpty q) }, t)) s

end Sys2Proof.Machine
end

