-- ==== Sys2Proof/Machine/Dispatch.lean ====
section
/-! DEFINITION. One arm per operation of R100. -/

namespace Sys2Proof.Machine

open Sys2Proof

def exec (i : Instr) (s : State) : Host.Outcome State Fault Refusal :=
  match i with
  | .init c => Sys2Proof.Machine.execInit c s
  | .send f => Sys2Proof.Machine.execSend f s
  | .tryReceive => Sys2Proof.Machine.execTryReceive s
  | .peekReceive => Sys2Proof.Machine.execPeekReceive s
  | .rxqFull => Sys2Proof.Machine.execRxqFull s
  | .rxqEmpty => Sys2Proof.Machine.execRxqEmpty s
  | .txqFull => Sys2Proof.Machine.execTxqFull s
  | .txqEmpty => Sys2Proof.Machine.execTxqEmpty s
  | .flush => Sys2Proof.Machine.execFlush s
  | .pinReset => Sys2Proof.Machine.execPinReset s
  | .qInit q => Sys2Proof.Machine.execQInit q s
  | .qEnq q => Sys2Proof.Machine.execQEnq q s
  | .qDeq q => Sys2Proof.Machine.execQDeq q s
  | .qPeek q => Sys2Proof.Machine.execQPeek q s
  | .qFull q => Sys2Proof.Machine.execQFull q s
  | .qEmpty q => Sys2Proof.Machine.execQEmpty q s
  | .reqAssert => Sys2Proof.Machine.execReqAssert s
  | .reqDeassert => Sys2Proof.Machine.execReqDeassert s
  | .rdyRead => Sys2Proof.Machine.execRdyRead s
  | .wakeArm => Sys2Proof.Machine.execWakeArm s
  | .wakeDisarm => Sys2Proof.Machine.execWakeDisarm s
  | .resetPulse => Sys2Proof.Machine.execResetPulse s
  | .transfer => Sys2Proof.Machine.execTransfer s
  | .schedStep => Sys2Proof.Machine.execSchedStep s
  | .rdyFall => Sys2Proof.Machine.execRdyFall s
  | .rdyRise => Sys2Proof.Machine.execRdyRise s
  | .isrService => Sys2Proof.Machine.execIsrService s

end Sys2Proof.Machine
end

