-- ==== Sys2Proof/Machine/Fetch.lean ====
section
/-! DEFINITION. Which atomic step comes next (R70, R73). The turn list says whose step it is; the foreground takes its
commands from the bytes at the port (R94), one at a time and only in F_IDLE (R200). -/

namespace Sys2Proof.Machine

open Sys2Proof

/-- What the next step is: an operation to run on a state, or a step that is already settled. -/
inductive Move where
  | run (i : Instr) (s : State)
  | settled (o : Outcome)

/-- The foreground in F_IDLE: the command at the port. No byte, or a command whose operand bytes have not all been
presented: it waits (log entry 7). A code above 0x09 is refused with ERR_UNDEF_OP and is one byte (R102, R201). -/
def portMove (s : State) : Move :=
  match s.port with
  | [] => .settled (.next s)
  | op :: tl =>
    if 0x09 < op.toNat then .settled (.next (reject op .errUndefOp { s with port := tl }))
    else
      match decode s.par.maxLength (op :: tl) with
      | .ok (i, rest) => .run i { s with port := rest }
      | .error _ => .settled (.next s)

/-- The foreground's turn: nothing in a halted block (R236); in F_IDLE the port; else the command in flight. -/
def fgMove (s : State) : Move :=
  if s.halted then .settled (.fault .halted)
  else if s.fg.phase = .idle then portMove s
  else .settled (.next (fgMicroStep s))

/-- A turn that names an operation by its code. -/
def opMove (code : Byte) (s : State) : Move :=
  match decode s.par.maxLength [code] with
  | .ok (i, _) => .run i s
  | .error _ => .settled (.fault .noSuchOperation)

/-- The next step. With no turn listed the foreground moves: "cooperative polling by default" (R10, log entry 6). -/
def nextMove (s : State) : Move :=
  match s.turns with
  | [] => fgMove s
  | .fg :: ts => fgMove { s with turns := ts }
  | .op code :: ts => opMove code { s with turns := ts }

/-- Place a table word where the next step fetches: a command goes to the front of the port with the foreground idle and
its turn next; any other operation becomes the next turn (log entry 8). -/
def placeFetchWord (s : State) (nbits w : Nat) : State :=
  let bs := tableWordBytes s.par.maxLength nbits w
  let op := bs.headD 0
  if op.toNat ≤ 0x09 then
    { s with port := bs ++ s.port, turns := .fg :: s.turns, fg := { s.fg with phase := .idle } }
  else { s with turns := .op op :: s.turns }

end Sys2Proof.Machine
end

