-- ==== Sys2Proof/Machine/Step.lean ====
section
/-! DEFINITION. One atomic step of the machine, and the placing of a table word where it fetches. -/

namespace Sys2Proof.Machine

open Sys2Proof

/-- One atomic step (R70): run the operation the fetch gives, or take the outcome it has settled. -/
def step (s : State) : Host.Outcome State Fault Refusal :=
  match nextMove s with
  | .run i t => exec i t
  | .settled o => o

/-- `s` with a table word stored where `step` fetches its next instruction. -/
def State.withFetchWord (s : State) (nbits w : Nat) : State := placeFetchWord s nbits w

end Sys2Proof.Machine
end

