-- ==== Sys2Proof/Safety.lean ====
section
/-! DEFINITION. The terms claims are stated in: what a queue holds, what is observed, which states a run of the three
agents can be in, and the plain list a queue is compared with. -/

namespace Sys2Proof.Machine

open Sys2Proof

/-- `contents(Q)`, oldest first (R30). -/
def Queue.contents (p : Params) (q : Queue) : List Frame :=
  (List.range q.count).map fun i => q.slots.getD ((q.head + i) % p.capacity) (Frame.zero p.maxLength)

/-- The contents of the queue `q` names. -/
def State.contents (q : QueueSel) (s : State) : List Frame := (s.queue q).contents s.par

/-- The invariants of R26, and the storage shape of R25 and R21: CAPACITY slots of MAX_LENGTH + 3 bytes. -/
abbrev Queue.wf (p : Params) (q : Queue) : Prop :=
  q.slots.length = p.capacity ∧ q.head < p.capacity ∧ q.tail < p.capacity ∧ q.count ≤ p.capacity ∧
    q.tail = (q.head + q.count) % p.capacity ∧ ∀ f ∈ q.slots, f.shaped p.maxLength = true

/-- A turn of one of the three agents (R10, R245): the foreground's, COP's two line steps, IRQ's service. It leaves out the
direct calls of internal operations, which R105 admits for tests only. -/
def Turn.ofAgent : Turn → Bool
  | .fg => true
  | .op code => code == 0x40#8 || code == 0x41#8 || code == 0x42#8

/-- The state between two atomic steps of a run of the three agents from power-on (R22, R26, R50, R283 and part 4 of
95_test_vectors.md). `disciplined` is the premise that nobody calls an internal operation directly. -/
structure Inv (s : State) : Prop where
  /-- R8 -/
  params : s.par.valid = true
  /-- R26 -/
  txqWf : s.txq.wf s.par
  /-- R26 -/
  rxqWf : s.rxq.wf s.par
  /-- R22 for TXQ -/
  txqLengths : ∀ f ∈ s.contents .tx, f.length.toNat ≤ s.par.maxLength
  /-- R22, R169, R184 for RXQ: a stored frame declared a nonzero length D, and its `length` is min(D, MAX_LENGTH) -/
  rxqFrames : ∀ f ∈ s.contents .rx, payloadByte f 0 ≠ 0x00#8 ∧
    f.length.toNat = min (payloadByte f 0).toNat s.par.maxLength
  /-- R50: HALTED = 0 -/
  running : s.halted = false
  /-- R50 (d) -/
  engineIdle : s.te.phase = .idle
  /-- R50 (c) -/
  pendingArmed : s.wake.pending = true → s.wake.armed = true
  /-- R50 (a) -/
  pollQuiet : s.cfg.irqMode = false → s.wake.armed = false
  /-- R50 (b) -/
  armedRoom : s.wake.armed = true → s.qFull .rx = false
  /-- before INITIALIZE no command is in flight and the wake mechanism is off (R40, R270) -/
  fresh : s.inited = false → s.fg.phase = .idle ∧ s.wake.armed = false
  /-- the converse of R50 (b), but between micro-steps 2 and 3 of a TRY_RECEIVE that saw RXQ full -/
  roomArmed : s.inited = true → s.cfg.irqMode = true → s.qFull .rx = false →
    ¬(s.fg.phase = .tryRx3 ∧ s.fg.wasFull = true) → s.wake.armed = true
  /-- between those micro-steps RXQ has room and the wake mechanism is off (R205) -/
  reopening : s.cfg.irqMode = true → s.fg.phase = .tryRx3 → s.fg.wasFull = true →
    s.qFull .rx = false ∧ s.wake.armed = false
  /-- R283: in poll mode RXQ is empty but between the tick and the dequeue of TRY_RECEIVE -/
  pollEmpty : s.inited = true → s.cfg.irqMode = false → s.fg.phase ≠ .tryRx2 → s.rxq.count = 0
  /-- R283: the tick adds at most one frame -/
  pollTick : s.inited = true → s.cfg.irqMode = false → s.rxq.count ≤ 1
  /-- R245, R105 -/
  disciplined : s.turns.all Turn.ofAgent = true

/-- Quiescent (R296): no command in flight, no cycle, no wake waiting for service, not halted. -/
def State.quiescent (s : State) : Bool :=
  decide (s.fg.phase = .idle) && decide (s.te.phase = .idle) && !s.wake.pending && !s.halted

/-- The next step is the foreground's. -/
abbrev State.fgTurn (s : State) : Prop := s.turns.headD .fg = .fg

/-- The foreground can accept a command: not halted, none in flight (R200). -/
abbrev State.accepting (s : State) : Prop := s.halted = false ∧ s.fg.phase = .idle

/-- The foreground can run a command other than INITIALIZE: it accepts one and the block is initialised (R201). -/
abbrev State.serving (s : State) : Prop := s.halted = false ∧ s.fg.phase = .idle ∧ s.inited = true

/-- Apply `f` to the next state, if the outcome is one. -/
def onNext (f : State → State) : Outcome → Outcome
  | .next s => .next (f s)
  | .fault r => .fault r
  | .refused r => .refused r

/-- The response of a completed command, as RESP and as the event that records it (R200). -/
def responded (op : Byte) (code : Code) (flag : Bool) (frame : Option Frame) (s : State) : State :=
  { s with
    resp := { code := code, flag := flag, frame := frame }
    fg := { s.fg with phase := .idle }
    trace := s.trace ++ [.resp op { code := code, flag := flag, frame := frame }] }

/-- The operand registers as the foreground has written them when it presents a command (R46). -/
def withOperand (i : Instr) (s : State) : State :=
  match i with
  | .init c => { s with opcfg := c }
  | .send f => { s with opframe := f }
  | .tryReceive | .peekReceive | .rxqFull | .rxqEmpty | .txqFull | .txqEmpty | .flush | .pinReset
  | .qInit _ | .qEnq _ | .qDeq _ | .qPeek _ | .qFull _ | .qEmpty _
  | .reqAssert | .reqDeassert | .rdyRead | .wakeArm | .wakeDisarm | .resetPulse
  | .transfer | .schedStep | .rdyFall | .rdyRise | .isrService => s

/-- A queue as R30 lets it be observed: its contents and nothing of where they stand. -/
def Queue.observed (p : Params) (q : Queue) : Queue :=
  { slots := q.contents p, head := 0, tail := 0, count := q.count }

/-- The state less what R30 and R31 call unobservable: slots outside the live window, and the place of the window. -/
def State.observed (s : State) : State :=
  { s with txq := s.txq.observed s.par, rxq := s.rxq.observed s.par }

/-- The state with the debug-echo flag blanked. -/
def State.withoutEcho (s : State) : State := { s with cfg := { s.cfg with debugEcho := false } }

/-- One use of a queue by its producer or its consumer. -/
inductive QueueAction where
  | enq (f : Frame)
  | deq
deriving DecidableEq, Repr

/-- What that use answers. -/
inductive QueueAnswer where
  | stored (ok : Bool)
  | taken (f : Option Frame)
deriving DecidableEq, Repr

/-- A sequence of uses of the queue `q` of the machine: the answers and the state after. -/
def runQueue (q : QueueSel) : List QueueAction → State → List QueueAnswer × State
  | [], s => ([], s)
  | .enq f :: as, s =>
    let r := runQueue q as (enqueue q f s).2
    (.stored (enqueue q f s).1 :: r.1, r.2)
  | .deq :: as, s =>
    let r := runQueue q as (dequeue q s).2
    (.taken (dequeue q s).1 :: r.1, r.2)

/-- The same sequence on a plain list of at most `capacity` frames: append at the end, take from the front. -/
def runBoundedList (capacity : Nat) : List QueueAction → List Frame → List QueueAnswer × List Frame
  | [], l => ([], l)
  | .enq f :: as, l =>
    let ok := decide (l.length < capacity)
    let r := runBoundedList capacity as (if l.length < capacity then l ++ [f] else l)
    (.stored ok :: r.1, r.2)
  | .deq :: as, l =>
    let r := runBoundedList capacity as l.tail
    (.taken l.head? :: r.1, r.2)

/-- The number of further byte pairs m of a cycle (R173), as the source's closed form writes it. -/
def cycleLength (maxLength L D : Nat) : Nat :=
  if L = 0 then min maxLength D else min maxLength (max D (L - 1))

/-- The bytes the block sends in a cycle (R173): L, `payload[1..L]` and the pad when L >= 1, zeros when L = 0. -/
def cycleSent (out : Frame) (m : Nat) : List Byte :=
  if out.length.toNat = 0 then List.replicate (2 + m) 0x00#8
  else [out.length] ++ (out.payload.drop 1).take out.length.toNat ++
    List.replicate ((2 + m) - (1 + out.length.toNat)) 0x00#8

/-- The received frame of a cycle (R169): the status, D, the m further replies, zeros to the end of the array. -/
def cycleReceived (maxLength m : Nat) (status D : Byte) (more : List Byte) : Frame :=
  { length := BitVec.ofNat 8 (min D.toNat maxLength)
    status := status
    payload := D :: more.take m ++ List.replicate (maxLength - m) 0x00#8 }

/-- The events of a cycle (R170): one assertion, one exchange a position, one deassertion. -/
def cycleEvents (sent replies : List Byte) : List Event :=
  [.write .req true] ++ List.zipWith Event.xchg sent replies ++ [.write .req false]

/-- The events of `n` scheduler steps that drain a queue holding `fs`, oldest first, into a coprocessor that is ready and
answers zeros (R192): each reads the line, sends the oldest frame, or NULL_FRAME when none is left, and asserts the
request line again when a frame remains. -/
def drainEvents (maxLength : Nat) : Nat → List Frame → List Event
  | 0, _ => []
  | n + 1, fs =>
    let f := fs.headD (Frame.zero maxLength)
    let m := cycleLength maxLength f.length.toNat 0
    [.read .rdy true] ++ cycleEvents (cycleSent f m) (List.replicate (2 + m) 0x00#8) ++
      (if fs.tail = [] then [] else [.write .req true]) ++ drainEvents maxLength n fs.tail

/-- The events of a reset pulse (R147). -/
def pulseEvents (p : Params) (variant : Byte) : List Event :=
  if variant = 0x00#8 then [.write .rst true, .write .rst false, .write .rst true]
  else [.write .rst true, .delay p.tResetLong, .write .rst false]

/-- An event that records a response. -/
def Event.isResp : Event → Bool
  | .resp _ _ => true
  | _ => false

/-- An event that records a sample of a line. -/
def Event.isRead : Event → Bool
  | .read _ _ => true
  | _ => false

end Sys2Proof.Machine
end

