-- ==== Sys2Proof/Certificates/Slice0/Obligations.lean ====
section
/-! DEFINITION. The statements about the transport core. The numbered rules of spec/ each one formalises stand in its docstring
and in OBLIGATIONS.json. Where a statement says what an operation leaves alone, it does so by giving the whole
next state: every field that is not written out is that of the state before. Where the model's own fields occur
(`turns`, `port`: log entries 6 and 7; `result`, which holds what an internal operation hands back to its
caller: log entry 13; OPFRAME and OPCFG taking the operand as a command is presented: log entry 7) that part is
the model's choice. -/

open Sys2Proof Sys2Proof.Machine

/-! ### Encoding -/

/-- R91, R94, R96 to R99, R100: the bytes of a well-formed operation, whatever follows them, decode to it, with every operand
at every value, in a build of any MAX_LENGTH. -/
def Obligations.EncodedOperationDecodesBack : Prop :=
  ∀ (maxLength : Nat) (i : Instr) (rest : List Byte), i.wellFormed maxLength = true →
    decode maxLength (encode i ++ rest) = .ok (i, rest)

/-- R91, R94, R96 to R99, R100: what decodes is well formed and is nothing but the operation's bytes and the rest. -/
def Obligations.DecodedBytesAreTheEncoding : Prop :=
  ∀ (maxLength : Nat) (bs : List Byte) (i : Instr) (rest : List Byte), decode maxLength bs = .ok (i, rest) →
    i.wellFormed maxLength = true ∧ encode i ++ rest = bs

/-- R95, R98, R99, R100: a code is undefined exactly when it is none of the 33 codes of the table. -/
def Obligations.OnlyTableCodesAreDefined : Prop :=
  ∀ (maxLength : Nat) (op : Byte) (tl : List Byte),
    decode maxLength (op :: tl) = .error (.undefinedCode op) ↔
      op.toNat ∉ [0x00, 0x01, 0x02, 0x03, 0x04, 0x05, 0x06, 0x07, 0x08, 0x09,
        0x10, 0x11, 0x12, 0x13, 0x14, 0x15, 0x18, 0x19, 0x1A, 0x1B, 0x1C, 0x1D,
        0x20, 0x21, 0x22, 0x23, 0x24, 0x25, 0x30, 0x31, 0x40, 0x41, 0x42]

/-- R97, R91, R100: the bytes the spec writes for one operation of each family decode to it (95_test_vectors.md P4 line 7,
P5 line 2; R98, R99). -/
def Obligations.SpecWordsDecode : Prop :=
  decode 2 [0x00, 0x01, 0x02, 0x03, 0x04, 0x05, 0x06, 0x08, 0x00, 0x01] =
      .ok (.init { pins := { req := 1, rdy := 2, rst := 3, clk := 4, din := 5, dout := 6 }
                   clkDiv := 8, variant := 0, flags := 1 }, []) ∧
    decode 2 [0x01, 0x02, 0x00, 0x00, 0xA1, 0xA2] =
      .ok (.send { length := 2, status := 0, payload := [0x00, 0xA1, 0xA2] }, []) ∧
    decode 2 [0x02] = .ok (.tryReceive, []) ∧ decode 2 [0x09] = .ok (.pinReset, []) ∧
    decode 2 [0x12] = .ok (.qDeq .tx, []) ∧ decode 2 [0x1A] = .ok (.qDeq .rx, []) ∧
    decode 2 [0x25] = .ok (.resetPulse, []) ∧ decode 2 [0x31] = .ok (.schedStep, []) ∧
    decode 2 [0x42] = .ok (.isrService, [])

/-! ### The step -/

/-- R94, R200: when it is the foreground's turn, no command is in flight and the bytes at the port decode to a command, the
step is that command's meaning, with the command's bytes and the turn taken. -/
def Obligations.StepRunsTheCommandAtThePort : Prop :=
  ∀ (s : State) (i : Instr) (rest : List Byte), s.accepting → s.fgTurn →
    decode s.par.maxLength s.port = .ok (i, rest) → i.isCommand = true →
    step s = exec i { s with port := rest, turns := s.turns.tail }

/-- R99, R105: when the next turn names an operation by its code, the step is that operation's meaning. -/
def Obligations.StepRunsTheOperationOfATurn : Prop :=
  ∀ (s : State) (code : Byte) (ts : List Turn) (i : Instr) (rest : List Byte), s.turns = .op code :: ts →
    decode s.par.maxLength [code] = .ok (i, rest) → step s = exec i { s with turns := ts }

/-- R45, R200: when it is the foreground's turn and a command is in flight, the step is the command's next micro-step;
nothing is taken from the port. -/
def Obligations.StepContinuesTheCommandInFlight : Prop :=
  ∀ s : State, s.halted = false → s.fgTurn →
    (s.fg.phase = .send2 → step s = .next (sendStep2 { s with turns := s.turns.tail })) ∧
    (s.fg.phase = .tryRx2 → step s = .next (tryRxStep2 { s with turns := s.turns.tail })) ∧
    (s.fg.phase = .tryRx3 → step s = .next (tryRxStep3 { s with turns := s.turns.tail }))

/-- R102: at the port every code above 0x09 is refused with ERR_UNDEF_OP, initialised or not, and nothing else changes but
that the byte is taken; in a halted block no answer is given. -/
def Obligations.UndefinedCodeAtThePortIsRefused : Prop :=
  ∀ (s : State) (op : Byte) (tl : List Byte), s.fgTurn → s.port = op :: tl → 0x09 < op.toNat →
    (s.accepting → step s = .next (responded op .errUndefOp false none { s with port := tl, turns := s.turns.tail })) ∧
    (s.halted = true → step s = .fault .halted)

/-- The model's choice, log entry 7: with no byte at the port, or a command whose operand bytes (R96) are not all there, the
foreground waits and only its turn is used up. -/
def Obligations.PortWaitsForAWholeCommand : Prop :=
  ∀ s : State, s.accepting → s.fgTurn →
    (s.port = [] ∨ ∃ op tl, s.port = op :: tl ∧ op.toNat ≤ 0x09 ∧ tl.length < operandLength s.par.maxLength op) →
    step s = .next { s with turns := s.turns.tail }

/-- R236, R201: in a halted block no agent of the block has a step; the coprocessor may still move the ready line, and that
changes nothing but LINE.ready and the wake latch. -/
def Obligations.HaltedBlockHasNoStep : Prop :=
  ∀ s : State, s.halted = true →
    (s.fgTurn → step s = .fault .halted) ∧
    (∀ i : Instr, i ≠ .rdyFall → i ≠ .rdyRise → exec i s = .fault .halted) ∧
    (∀ i : Instr, i = .rdyFall ∨ i = .rdyRise → ∃ t, exec i s = .next t ∧
      t = { s with line := { s.line with ready := t.line.ready }
                   wake := { s.wake with pending := t.wake.pending } })

/-- R201, R293, R200: a step refuses nothing, and it faults only in a halted block, on a command while another is in flight,
or on a turn that names no operation an agent can take. -/
def Obligations.StepFaultsOnlyForANamedReason : Prop :=
  ∀ s : State, (∀ r, step s ≠ .refused r) ∧
    (step s = .fault .halted → s.halted = true) ∧
    (step s = .fault .commandInFlight → s.fg.phase ≠ .idle ∧ ∃ code ts, s.turns = .op code :: ts ∧ code.toNat ≤ 0x09) ∧
    (step s = .fault .noSuchOperation → ∃ code ts, s.turns = .op code :: ts ∧
      ∀ i : Instr, decode s.par.maxLength [code] ≠ .ok (i, []))

/-! ### The queues -/

/-- R121: Q_INIT sets the three indices of the selected queue to 0, keeps its slots, and leaves it empty. -/
def Obligations.QInitEmptiesTheQueue : Prop :=
  (Instr.qInit .tx).code = 0x10#8 ∧ (Instr.qInit .rx).code = 0x18#8 ∧
  ∀ (q : QueueSel) (s : State), s.halted = false →
    ∃ v : Queue, v = { s.queue q with head := 0, tail := 0, count := 0 } ∧ v.contents s.par = [] ∧
      exec (.qInit q) s = .next { setQueue q v s with result := CallResult.none }

/-- R122: Q_ENQ on a full queue answers false and changes nothing; on any other it stores the whole frame at the tail, moves
the tail and the count, and appends the frame to the contents. -/
def Obligations.QEnqAppendsOrRejects : Prop :=
  (Instr.qEnq .tx).code = 0x11#8 ∧ (Instr.qEnq .rx).code = 0x19#8 ∧
  ∀ (q : QueueSel) (s : State), s.halted = false → (s.queue q).wf s.par →
    ((s.queue q).count = s.par.capacity →
      exec (.qEnq q) s = .next { s with result := { bit := some false, frame := none, count := none } }) ∧
    ((s.queue q).count ≠ s.par.capacity → ∃ (f : Frame) (v : Queue),
      f = (match q with | .tx => s.opframe | .rx => s.te.rx) ∧
      v = { slots := (s.queue q).slots.set (s.queue q).tail f, head := (s.queue q).head
            tail := ((s.queue q).tail + 1) % s.par.capacity, count := (s.queue q).count + 1 } ∧
      v.contents s.par = s.contents q ++ [f] ∧ (f.shaped s.par.maxLength = true → v.wf s.par) ∧
      exec (.qEnq q) s =
        .next { setQueue q v s with result := { bit := some true, frame := none, count := none } })

/-- R123: Q_DEQ on an empty queue answers none and changes nothing; on any other it answers the oldest frame, whole, and
moves the head and the count, and the slots keep their bytes. -/
def Obligations.QDeqTakesTheOldest : Prop :=
  (Instr.qDeq .tx).code = 0x12#8 ∧ (Instr.qDeq .rx).code = 0x1A#8 ∧
  ∀ (q : QueueSel) (s : State), s.halted = false → (s.queue q).wf s.par →
    ((s.queue q).count = 0 →
      exec (.qDeq q) s = .next { s with result := { bit := some false, frame := none, count := none } }) ∧
    ((s.queue q).count ≠ 0 → ∃ (f : Frame) (v : Queue),
      v = { s.queue q with head := ((s.queue q).head + 1) % s.par.capacity, count := (s.queue q).count - 1 } ∧
      s.contents q = f :: v.contents s.par ∧ v.wf s.par ∧
      exec (.qDeq q) s =
        .next { setQueue q v s with result := { bit := some true, frame := some f, count := none } })

/-- R124: Q_PEEK answers the oldest frame, or none on an empty queue, and changes no state of the block. -/
def Obligations.QPeekReadsTheOldest : Prop :=
  (Instr.qPeek .tx).code = 0x13#8 ∧ (Instr.qPeek .rx).code = 0x1B#8 ∧
  ∀ (q : QueueSel) (s : State), s.halted = false → (s.queue q).wf s.par →
    exec (.qPeek q) s = .next { s with result :=
      { bit := some (decide (s.contents q ≠ [])), frame := (s.contents q).head?, count := none } }

/-- R125, R126: Q_FULL answers whether count is CAPACITY, Q_EMPTY whether it is 0, and neither changes any state of the
block. -/
def Obligations.QueueFlagsAreQueries : Prop :=
  (Instr.qFull .tx).code = 0x14#8 ∧ (Instr.qFull .rx).code = 0x1C#8 ∧
  (Instr.qEmpty .tx).code = 0x15#8 ∧ (Instr.qEmpty .rx).code = 0x1D#8 ∧
  ∀ (q : QueueSel) (s : State), s.halted = false →
    exec (.qFull q) s = .next { s with result :=
      { bit := some (decide ((s.queue q).count = s.par.capacity)), frame := none, count := none } } ∧
    exec (.qEmpty q) s = .next { s with result :=
      { bit := some (decide ((s.queue q).count = 0)), frame := none, count := none } }

/-- R120, R128 (1) and (2), R30: for every sequence of enqueues and dequeues a queue answers exactly as a list of at most
CAPACITY frames that is appended at the end and taken from the front, its contents are that list, and it
touches nothing else. -/
def Obligations.QueueIsABoundedFifo : Prop :=
  ∀ (q : QueueSel) (acts : List QueueAction) (s : State), (s.queue q).wf s.par →
    (∀ f, QueueAction.enq f ∈ acts → f.shaped s.par.maxLength = true) →
    (runQueue q acts s).1 = (runBoundedList s.par.capacity acts (s.contents q)).1 ∧
    (runQueue q acts s).2.contents q = (runBoundedList s.par.capacity acts (s.contents q)).2 ∧
    (runQueue q acts s).2 = setQueue q ((runQueue q acts s).2.queue q) s ∧
    ((runQueue q acts s).2.queue q).wf s.par

/-- R128 (3), R67: a frame enqueued in an empty queue and then dequeued is the same frame, all its bytes. -/
def Obligations.EnqueueThenDequeueReturnsTheFrame : Prop :=
  ∀ (q : QueueSel) (f : Frame) (s : State), (s.queue q).wf s.par → s.contents q = [] →
    f.shaped s.par.maxLength = true →
    (enqueue q f s).1 = true ∧ (dequeue q (enqueue q f s).2).1 = some f ∧
      (dequeue q (enqueue q f s).2).2.contents q = []

/-! ### Lines and the wake mechanism -/

/-- R142: REQ_ASSERT sets LINE.req and records the write, asserted before or not. -/
def Obligations.ReqAssertDrivesTheLine : Prop :=
  Instr.reqAssert.code = 0x20#8 ∧
  ∀ s : State, s.halted = false → exec .reqAssert s = .next { s with
    line := { s.line with req := true }, trace := s.trace ++ [.write .req true], result := CallResult.none }

/-- R143: REQ_DEASSERT clears LINE.req and records the write. -/
def Obligations.ReqDeassertDrivesTheLine : Prop :=
  Instr.reqDeassert.code = 0x21#8 ∧
  ∀ s : State, s.halted = false → exec .reqDeassert s = .next { s with
    line := { s.line with req := false }, trace := s.trace ++ [.write .req false], result := CallResult.none }

/-- R144: RDY_READ answers LINE.ready and changes no state but TRACE. -/
def Obligations.RdyReadSamplesTheLine : Prop :=
  Instr.rdyRead.code = 0x22#8 ∧
  ∀ s : State, s.halted = false → exec .rdyRead s = .next { s with
    trace := s.trace ++ [.read .rdy s.line.ready]
    result := { bit := some s.line.ready, frame := none, count := none } }

/-- R145: WAKE_ARM arms, keeps a pending wake, and latches a ready line when ARM_SAMPLES_LEVEL. -/
def Obligations.WakeArmEnables : Prop :=
  Instr.wakeArm.code = 0x23#8 ∧
  ∀ s : State, s.halted = false → exec .wakeArm s = .next { s with
    wake := { armed := true, pending := s.wake.pending || (s.par.armSamplesLevel && s.line.ready) }
    trace := s.trace ++ [.arm .falling], result := CallResult.none }

/-- R146: WAKE_DISARM disarms and drops a pending wake. -/
def Obligations.WakeDisarmDrops : Prop :=
  Instr.wakeDisarm.code = 0x24#8 ∧
  ∀ s : State, s.halted = false → exec .wakeDisarm s = .next { s with
    wake := { armed := false, pending := false }, trace := s.trace ++ [.disarm], result := CallResult.none }

/-- R147: RESET_PULSE writes the reset line by the board variant and leaves it at 1 or 0. The levels and the delay are opaque
(V12, K2; log entry 18): this statement says what the rule writes, and no other statement rests on them. -/
def Obligations.ResetPulseFollowsTheVariant : Prop :=
  Instr.resetPulse.code = 0x25#8 ∧
  ∀ s : State, s.halted = false →
    (s.cfg.variant = 0x00#8 → exec .resetPulse s = .next { s with
      line := { s.line with rst := some true }
      trace := s.trace ++ [.write .rst true, .write .rst false, .write .rst true], result := CallResult.none }) ∧
    (s.cfg.variant = 0x01#8 → exec .resetPulse s = .next { s with
      line := { s.line with rst := some false }
      trace := s.trace ++ [.write .rst true, .delay s.par.tResetLong, .write .rst false]
      result := CallResult.none })

/-! ### The transfer engine -/

/-- R161, R164 to R170, R173: the closed form of one cycle. The operand is OPFRAME (R46), latched in TE.out. With outgoing
length L at most MAX_LENGTH and the replies status,
D and at least m more, the cycle takes 2 + m replies, sends the bytes of the closed form, receives the frame
of the closed form, answers it and m, leaves the request line deasserted and the engine idle, and touches
nothing else (R172). -/
def Obligations.TransferHasTheClosedForm : Prop :=
  ∀ (s : State) (status D : Byte) (more : List Byte), s.halted = false →
    s.opframe.shaped s.par.maxLength = true → s.opframe.length.toNat ≤ s.par.maxLength →
    s.replies = status :: D :: more →
    cycleLength s.par.maxLength s.opframe.length.toNat D.toNat ≤ more.length →
    ∃ (m : Nat) (t : State), m = cycleLength s.par.maxLength s.opframe.length.toNat D.toNat ∧
      exec .transfer s = .next t ∧
      t.te.phase = .idle ∧ t.te.out = s.opframe ∧ t.te.d = D ∧ t.te.m = m ∧
      t.te.rx = cycleReceived s.par.maxLength m status D more ∧
      t = { s with
        te := t.te, line := { s.line with req := false }
        trace := s.trace ++ cycleEvents (cycleSent s.opframe m) (status :: D :: more.take m)
        replies := more.drop m
        result := { bit := none, frame := some t.te.rx, count := some m } }

/-- R170, R166, R168, R172: whatever the outgoing frame and whatever the coprocessor replies, a cycle completes; it records one
assertion, exactly 2 + m exchanges with m at most MAX_LENGTH, and one deassertion; it leaves the request line
deasserted and the engine idle, and touches nothing else. -/
def Obligations.TransferAlwaysCompletes : Prop :=
  ∀ s : State, s.halted = false → ∃ (t : State) (pairs : List (Byte × Byte)),
    exec .transfer s = .next t ∧ t.te.m ≤ s.par.maxLength ∧ pairs.length = 2 + t.te.m ∧ t.te.phase = .idle ∧
    t = { s with
      te := t.te, line := { s.line with req := false }
      trace := s.trace ++ [.write .req true] ++ pairs.map (fun p => .xchg p.1 p.2) ++ [.write .req false]
      replies := s.replies.drop (2 + t.te.m), drawn := s.drawn + (2 + t.te.m - s.replies.length)
      result := { bit := none, frame := some t.te.rx, count := some t.te.m } }

/-! ### The scheduler -/

/-- R182: with RXQ full a scheduler step changes nothing and records nothing, whatever TXQ holds and whatever the ready
line says. -/
def Obligations.GuardHoldsBackTheTransfer : Prop :=
  ∀ s : State, s.halted = false → s.rxq.count = s.par.capacity →
    exec .schedStep s = .next { s with result := CallResult.none }

/-- R183: with room in RXQ and the ready line not ready there is no transfer; the step reads the line, and asserts the
request line exactly when TXQ is not empty. -/
def Obligations.NotReadyMeansNoTransfer : Prop :=
  ∀ s : State, s.halted = false → s.rxq.count ≠ s.par.capacity → s.line.ready = false →
    exec .schedStep s = .next
      (if s.txq.count = 0 then
        { s with trace := s.trace ++ [.read .rdy false], result := CallResult.none }
      else
        { s with line := { s.line with req := true }
                 trace := s.trace ++ [.read .rdy false, .write .req true], result := CallResult.none })

/-- R181, R184, R185, R75: with room in RXQ and the ready line ready a scheduler step runs one cycle with the oldest frame of
TXQ, or NULL_FRAME; it takes that frame from TXQ, appends the received frame to RXQ exactly when D is not 0,
leaves the request line asserted exactly when RXQ still has room and TXQ still has a frame, disarms the wake
mechanism exactly when the mode is interrupt-driven and RXQ is now full, never halts, and touches nothing
else. `c` is the state the cycle alone gives. -/
def Obligations.ReadyMeansOneTransfer : Prop :=
  ∀ s : State, s.halted = false → s.txq.wf s.par → s.rxq.wf s.par →
    s.rxq.count ≠ s.par.capacity → s.line.ready = true →
    ∃ t c : State, exec .schedStep s = .next t ∧
      c = runTransfer ((s.contents .tx).headD (Frame.zero s.par.maxLength))
        { s with trace := s.trace ++ [.read .rdy true] } ∧
      t.te = c.te ∧ t.txq.wf s.par ∧ t.rxq.wf s.par ∧
      t.contents .tx = (s.contents .tx).tail ∧
      t.contents .rx = s.contents .rx ++ (if c.te.d = 0x00#8 then [] else [c.te.rx]) ∧
      t = { s with
        txq := t.txq, rxq := t.rxq, te := c.te, replies := c.replies, drawn := c.drawn
        line := { s.line with req := decide (t.rxq.count ≠ s.par.capacity ∧ t.txq.count ≠ 0) }
        wake := if s.cfg.irqMode = true ∧ t.rxq.count = s.par.capacity then { armed := false, pending := false }
          else s.wake
        trace := c.trace ++
          (if t.rxq.count ≠ s.par.capacity ∧ t.txq.count ≠ 0 then [.write .req true] else []) ++
          (if s.cfg.irqMode = true ∧ t.rxq.count = s.par.capacity then [.disarm] else [])
        result := CallResult.none }

/-- R192, draining: with a coprocessor that is always ready and always declares length 0, n successive scheduler steps remove
the first n frames of TXQ in order, send them in that order (NULL_FRAME once TXQ is empty), frame by frame with the
events of `drainEvents`, and leave RXQ as it was. -/
def Obligations.SchedulerDrainsTheTransmitQueue : Prop :=
  ∀ (n : Nat) (s : State) (spare : List Byte), s.halted = false → s.par.valid = true →
    s.txq.wf s.par → s.rxq.wf s.par →
    (∀ f ∈ s.contents .tx, f.length.toNat ≤ s.par.maxLength) →
    s.rxq.count ≠ s.par.capacity → s.line.ready = true →
    s.turns = List.replicate n (.op 0x31#8) →
    s.replies = List.replicate (n * (s.par.maxLength + 2)) 0x00#8 ++ spare →
    ∃ t : State, Host.Core.run Sys2Proof.core n s = .next t ∧
      t.contents .tx = (s.contents .tx).drop n ∧ t.rxq = s.rxq ∧ t.line.ready = true ∧ t.turns = [] ∧
      t.trace = s.trace ++ drainEvents s.par.maxLength n (s.contents .tx)

/-- R190, R50: the fatal condition cannot be reached: from any state no step sets HALTED. -/
def Obligations.NoStepHalts : Prop :=
  ∀ s t : State, step s = .next t → t.halted = s.halted

/-! ### The event steps -/

/-- R187: RDY_FALL (code 0x40), on a line that is not ready, makes it ready and latches a wake exactly when armed. -/
def Obligations.RdyFallLatchesTheEdge : Prop :=
  Instr.rdyFall.code = 0x40#8 ∧
  ∀ s : State, s.line.ready = false → exec .rdyFall s = .next { s with
    line := { s.line with ready := true }
    wake := { armed := s.wake.armed, pending := if s.wake.armed then true else s.wake.pending } }

/-- R188: RDY_RISE (code 0x41), on a line that is ready, makes it not ready and keeps a pending wake. -/
def Obligations.RdyRiseWithdrawsReady : Prop :=
  Instr.rdyRise.code = 0x41#8 ∧
  ∀ s : State, s.line.ready = true → exec .rdyRise s = .next { s with line := { s.line with ready := false } }

/-- R186: ISR_SERVICE (code 0x42), when INITIALIZED = 1, HALTED = 0, WAKE.armed = 1 and WAKE.pending = 1, clears WAKE.pending and
does what a scheduler step does (the model's own field `result` keeps its value); and only then is it enabled. -/
def Obligations.IsrServiceRunsTheScheduler : Prop :=
  Instr.isrService.code = 0x42#8 ∧
  ∀ s : State,
    (s.isrEnabled = true ↔ s.inited = true ∧ s.halted = false ∧ s.wake.armed = true ∧ s.wake.pending = true) ∧
    (s.inited = true → s.halted = false → s.wake.armed = true → s.wake.pending = true →
      ∃ u : State, exec .schedStep { s with wake := { armed := true, pending := false } } = .next u ∧
        exec .isrService s = .next { u with result := s.result })

/-- The model's choice, log entry 10: a turn that names an event step which is not enabled passes, and nothing changes
(RDY_FALL on a ready line, RDY_RISE on a line that is not, ISR_SERVICE in a running block when it is not
enabled). -/
def Obligations.DisabledEventStepPasses : Prop :=
  ∀ s : State,
    (s.line.ready = true → exec .rdyFall s = .next s) ∧
    (s.line.ready = false → exec .rdyRise s = .next s) ∧
    (s.halted = false → s.isrEnabled = false → exec .isrService s = .next s)

/-- R242: the interrupt context touches neither FG nor OPFRAME nor OPCFG nor RESP, and appends no response. -/
def Obligations.InterruptContextNeverResponds : Prop :=
  ∀ s t : State, exec .isrService s = .next t →
    t.fg = s.fg ∧ t.opframe = s.opframe ∧ t.opcfg = s.opcfg ∧ t.resp = s.resp ∧
      ∃ es : List Event, t.trace = s.trace ++ es ∧ ∀ e ∈ es, e.isResp = false

/-! ### The application commands -/

/-- R201, R235: before INITIALIZE every other command is refused with ERR_NOT_INIT, and after it INITIALIZE is refused with
ERR_ALREADY_INIT; nothing changes but RESP and TRACE, and the operand register the foreground itself has
written (R46). -/
def Obligations.PrologueRefuses : Prop :=
  ∀ (s : State) (i : Instr), s.accepting → i.isCommand = true →
    (s.inited = false → i.code ≠ 0x00#8 →
      exec i s = .next (responded i.code .errNotInit false none (withOperand i s))) ∧
    (s.inited = true → i.code = 0x00#8 →
      exec i s = .next (responded i.code .errAlreadyInit false none (withOperand i s)))

/-- R202, R203, R234: INITIALIZE with a valid record stores it, resets both queues, pulses the reset line, deasserts the
request line, arms the wake mechanism in interrupt-driven mode, sets INITIALIZED and answers OK, with its
events in the source's order; with an invalid record it answers ERR_CONFIG and does nothing else. -/
def Obligations.InitializeConfiguresOrRefuses : Prop :=
  ∀ (s : State) (c : ConfigRecord), s.accepting → s.inited = false →
    ((c.variant.toNat ≤ 1 ∧ c.flags.toNat < 4 ∧ c.pins ∉ s.par.rejectedPins) →
      exec (.init c) s = .next { s with
        opcfg := c
        cfg := { pins := c.pins, clkDiv := c.clkDiv, variant := c.variant
                 irqMode := c.flags.getLsbD 0, debugEcho := c.flags.getLsbD 1 }
        txq := { s.txq with head := 0, tail := 0, count := 0 }
        rxq := { s.rxq with head := 0, tail := 0, count := 0 }
        line := { req := false, ready := s.line.ready, rst := some (decide (c.variant = 0x00#8)) }
        wake := if c.flags.getLsbD 0 then
            { armed := true, pending := s.wake.pending || (s.par.armSamplesLevel && s.line.ready) }
          else s.wake
        inited := true
        resp := { code := .ok, flag := true, frame := none }
        trace := s.trace ++
          [.busConfig c.clkDiv, .dir .req .output, .dir .rdy .input, .dir .rst .output] ++
          pulseEvents s.par c.variant ++ [.write .req false, .delay s.par.tInitSettle] ++
          (if c.flags.getLsbD 0 then [.arm .falling] else []) ++
          [.resp 0x00#8 { code := .ok, flag := true, frame := none }] }) ∧
    (¬(c.variant.toNat ≤ 1 ∧ c.flags.toNat < 4 ∧ c.pins ∉ s.par.rejectedPins) →
      exec (.init c) s = .next (responded 0x00#8 .errConfig false none { s with opcfg := c }))

/-- R204, R231, R232, R241: SEND. Micro-step 1 rejects an over-long frame first, then a full TXQ, and otherwise appends the
frame, whole, to TXQ; micro-step 2 asserts the request line when SEND_ASSERTS_REQ and RXQ has room, and
answers OK. -/
def Obligations.SendQueuesThenAnswers : Prop :=
  (∀ (s : State) (f : Frame), s.serving →
    (s.par.maxLength < f.length.toNat →
      exec (.send f) s = .next (responded 0x01#8 .rejLength false none { s with opframe := f })) ∧
    (f.length.toNat ≤ s.par.maxLength → s.txq.count = s.par.capacity →
      exec (.send f) s = .next (responded 0x01#8 .rejFull false none { s with opframe := f })) ∧
    (f.length.toNat ≤ s.par.maxLength → s.txq.wf s.par → s.txq.count ≠ s.par.capacity → ∃ v : Queue,
      v.contents s.par = s.contents .tx ++ [f] ∧ v.slots = s.txq.slots.set s.txq.tail f ∧
      v.head = s.txq.head ∧ v.tail = (s.txq.tail + 1) % s.par.capacity ∧
      exec (.send f) s = .next { s with opframe := f, txq := v, fg := { s.fg with phase := .send2 } })) ∧
  (∀ s : State, s.halted = false → s.fgTurn → s.fg.phase = .send2 →
    step s = .next (responded 0x01#8 .ok true none
      (if s.par.sendAssertsReq = true ∧ s.rxq.count ≠ s.par.capacity then
        { s with turns := s.turns.tail, line := { s.line with req := true }
                 trace := s.trace ++ [.write .req true] }
      else { s with turns := s.turns.tail })))

/-- R205, R233, R185: TRY_RECEIVE. Micro-step 1 is a scheduler step in poll mode and nothing in interrupt-driven mode.
Micro-step 2 samples RXQ.FULL, and answers REJ_EMPTY on an empty RXQ or takes the oldest frame. Micro-step 3
arms the wake mechanism, and asserts the request line when TXQ is not empty, exactly when the mode is
interrupt-driven and RXQ was full; then it answers the frame. -/
def Obligations.TryReceiveTicksTakesAndReopens : Prop :=
  (∀ s : State, s.serving →
    (s.cfg.irqMode = true → exec .tryReceive s = .next { s with fg := { s.fg with phase := .tryRx2 } }) ∧
    (s.cfg.irqMode = false → ∃ u : State, exec .schedStep s = .next u ∧
      exec .tryReceive s = .next { u with result := s.result, fg := { s.fg with phase := .tryRx2 } })) ∧
  (∀ s : State, s.halted = false → s.fgTurn → s.fg.phase = .tryRx2 → s.rxq.wf s.par →
    (s.rxq.count = 0 → step s = .next (responded 0x02#8 .rejEmpty false none { s with
      turns := s.turns.tail, fg := { s.fg with wasFull := decide (s.rxq.count = s.par.capacity) } })) ∧
    (s.rxq.count ≠ 0 → ∃ (f : Frame) (v : Queue),
      v = { s.rxq with head := (s.rxq.head + 1) % s.par.capacity, count := s.rxq.count - 1 } ∧
      s.contents .rx = f :: v.contents s.par ∧
      step s = .next { s with
        turns := s.turns.tail, rxq := v
        fg := { phase := .tryRx3, wasFull := decide (s.rxq.count = s.par.capacity)
                res := { code := .ok, flag := true, frame := some f } } })) ∧
  (∀ s : State, s.halted = false → s.fgTurn → s.fg.phase = .tryRx3 →
    step s = .next (responded 0x02#8 s.fg.res.code s.fg.res.flag s.fg.res.frame
      (if s.cfg.irqMode = true ∧ s.fg.wasFull = true then
        { s with
          turns := s.turns.tail
          wake := { armed := true, pending := s.wake.pending || (s.par.armSamplesLevel && s.line.ready) }
          line := { s.line with req := if s.txq.count = 0 then s.line.req else true }
          trace := s.trace ++ [.arm .falling] ++ (if s.txq.count = 0 then [] else [.write .req true]) }
      else { s with turns := s.turns.tail })))

/-- R206: PEEK_RECEIVE answers the oldest frame of RXQ, or REJ_EMPTY, and changes no state but RESP and TRACE. -/
def Obligations.PeekReceiveLooksOnly : Prop :=
  Instr.peekReceive.code = 0x03#8 ∧
  ∀ s : State, s.serving → s.rxq.wf s.par →
    (s.rxq.count = 0 → exec .peekReceive s = .next (responded 0x03#8 .rejEmpty false none s)) ∧
    (s.rxq.count ≠ 0 → ∃ f, (s.contents .rx).head? = some f ∧
      exec .peekReceive s = .next (responded 0x03#8 .ok true (some f) s))

/-- R207, R208, R209, R210: the four queries (codes 0x04 to 0x07) answer OK with the flag of the queue, and change no state but
RESP and TRACE. Behind the application's back RXQ only fills and TXQ only empties. -/
def Obligations.QueriesAnswerTheFlags : Prop :=
  (Instr.rxqFull.code = 0x04#8 ∧ Instr.rxqEmpty.code = 0x05#8 ∧ Instr.txqFull.code = 0x06#8 ∧ Instr.txqEmpty.code = 0x07#8) ∧
  (∀ s : State, s.serving →
    exec .rxqFull s = .next (responded 0x04#8 .ok (decide (s.rxq.count = s.par.capacity)) none s) ∧
    exec .rxqEmpty s = .next (responded 0x05#8 .ok (decide (s.rxq.count = 0)) none s) ∧
    exec .txqFull s = .next (responded 0x06#8 .ok (decide (s.txq.count = s.par.capacity)) none s) ∧
    exec .txqEmpty s = .next (responded 0x07#8 .ok (decide (s.txq.count = 0)) none s)) ∧
  (∀ (s t : State) (i : Instr), i.isEvent = true → exec i s = .next t →
    s.rxq.count ≤ t.rxq.count ∧ t.txq.count ≤ s.txq.count)

/-- R211, R272: FLUSH empties both queues; in interrupt-driven mode the wake mechanism is disarmed before and armed after, so
a pending wake is dropped unless arming samples a ready line; nothing else changes but RESP and TRACE. -/
def Obligations.FlushEmptiesBothQueues : Prop :=
  Instr.flush.code = 0x08#8 ∧
  ∀ s : State, s.serving →
    exec .flush s = .next (responded 0x08#8 .ok true none { s with
      txq := { s.txq with head := 0, tail := 0, count := 0 }
      rxq := { s.rxq with head := 0, tail := 0, count := 0 }
      wake := if s.cfg.irqMode then { armed := true, pending := s.par.armSamplesLevel && s.line.ready } else s.wake
      trace := s.trace ++ (if s.cfg.irqMode then [.disarm, .arm .falling] else []) })

/-- R212, R273: PIN_RESET is the reset pulse and a response, and changes nothing else. -/
def Obligations.PinResetPulsesOnly : Prop :=
  Instr.pinReset.code = 0x09#8 ∧
  ∀ s : State, s.serving → ∃ u : State, exec .resetPulse s = .next u ∧
    exec .pinReset s = .next (responded 0x09#8 .ok true none { s with
      line := { s.line with rst := u.line.rst }, trace := u.trace })

/-- R205, R283, D12: in poll mode a TRY_RECEIVE whose own tick receives a frame returns that frame: three foreground steps
from the command byte to the response, after which RXQ is empty again. -/
def Obligations.PollReceiveReturnsTheFrameOfItsTick : Prop :=
  ∀ (s : State) (status D : Byte) (more rest : List Byte), s.serving → s.turns = [] → s.port = 0x02#8 :: rest →
    s.par.valid = true → s.txq.wf s.par → s.rxq.wf s.par → s.cfg.irqMode = false → s.rxq.count = 0 →
    s.line.ready = true → s.replies = status :: D :: more → D ≠ 0x00#8 →
    ∃ t : State, Host.Core.run Sys2Proof.core 3 s = .next t ∧
      t.resp = { code := .ok, flag := true, frame := some t.te.rx } ∧ t.te.rx.status = status ∧ t.te.d = D ∧
      t.te.rx.payload.head? = some D ∧ t.rxq.count = 0 ∧ t.fg.phase = .idle ∧ t.port = rest ∧
      t.contents .tx = (s.contents .tx).tail

/-- R200, R190: with only the foreground moving, a command at the port is over after one to three steps: the block is idle
again, the command's bytes and no others are taken, and exactly one response has been given, as RESP and as the
last event, whatever the coprocessor replies. -/
def Obligations.EveryCommandIsAnsweredOnce : Prop :=
  ∀ (s : State) (i : Instr) (rest : List Byte), s.accepting → s.turns = [] →
    decode s.par.maxLength s.port = .ok (i, rest) → i.isCommand = true →
    ∃ (k : Nat) (t : State) (es : List Event), 1 ≤ k ∧ k ≤ 3 ∧ Host.Core.run Sys2Proof.core k s = .next t ∧
      t.accepting ∧ t.port = rest ∧ t.trace = s.trace ++ es ++ [.resp i.code t.resp] ∧
      ∀ e ∈ es, e.isResp = false

/-! ### The whole machine -/

/-- R270: the power-on state of every build; ISR_SERVICE is not enabled in it. -/
def Obligations.PowerOnStateAsStated : Prop :=
  ∀ p : Params, (State.powerOn p).inited = false ∧ (State.powerOn p).halted = false ∧
    (State.powerOn p).wake.armed = false ∧ (State.powerOn p).wake.pending = false ∧
    (State.powerOn p).te.phase = .idle ∧ (State.powerOn p).fg.phase = .idle ∧ (State.powerOn p).trace = [] ∧
    (State.powerOn p).line.rst = none ∧ (State.powerOn p).isrEnabled = false

/-- R22, R26, R50, R283: the power-on state of every legal build meets the invariant of a run, and State.reset is that of the
example build. What a register the spec leaves unspecified holds, and the example build, are the model's choice
(log entries 1, 3, 4). -/
def Obligations.PowerOnMeetsTheInvariant : Prop :=
  (∀ p : Params, p.valid = true → Inv (State.powerOn p)) ∧ State.reset = State.powerOn Config.exampleParams ∧
    Config.exampleParams.valid = true ∧ Inv State.reset

/-- R22, R26, R50, R283: every step of a run of the three agents keeps the invariant. -/
def Obligations.StepKeepsTheInvariant : Prop :=
  ∀ s t : State, Inv s → step s = .next t → Inv t

/-- From a state that meets the invariant the machine always has a next step, no fault and no refusal, and is not halted
after it. That the block is never halted follows from R50, R190 and R236. That there is a step in every such state is the
model's choice: whose turn it is stands in the turn list (log entry 6), at a port with no whole command the foreground
waits (log entry 7), and a turn of an event step that is not enabled passes (log entry 10), where the spec gives no
such step. -/
def Obligations.InvariantStatesAlwaysStep : Prop :=
  ∀ s : State, Inv s → ∃ t, step s = .next t ∧ t.halted = false

/-- R191, R50 (a): exactly one context runs the scheduler: in poll mode ISR_SERVICE is never enabled, and in
interrupt-driven mode no step of the foreground exchanges a byte or samples the ready line, as every scheduler step
that passes the Guard does. -/
def Obligations.OneContextRunsTheScheduler : Prop :=
  ∀ s t : State, Inv s → step s = .next t →
    (s.cfg.irqMode = false → s.isrEnabled = false) ∧
    (s.cfg.irqMode = true → s.fgTurn → t.te = s.te ∧ t.replies = s.replies ∧ t.drawn = s.drawn ∧
      ∃ es : List Event, t.trace = s.trace ++ es ∧ ∀ e ∈ es, e.isRead = false)

/-- R33: once INITIALIZED is set no step changes a field of CFG, and a second INITIALIZE is refused; nor does any step change
a parameter (R8). -/
def Obligations.ConfigurationIsReadOnly : Prop :=
  (∀ s t : State, step s = .next t → t.par = s.par ∧ (s.inited = true → t.cfg = s.cfg)) ∧
  ∀ (s : State) (c : ConfigRecord), s.accepting → s.inited = true →
    ∃ t, exec (.init c) s = .next t ∧ t.resp.code = .errAlreadyInit ∧ t.cfg = s.cfg

/-- R40, R48: no step clears INITIALIZED, and TRACE only grows at its end. -/
def Obligations.InitializedAndTraceAreKept : Prop :=
  ∀ s t : State, step s = .next t → (s.inited = true → t.inited = true) ∧ ∃ es : List Event, t.trace = s.trace ++ es

/-- R36: only the coprocessor's two line steps change LINE.ready. -/
def Obligations.ReadyLineIsTheCoprocessors : Prop :=
  ∀ s t : State, step s = .next t → t.line.ready ≠ s.line.ready →
    (s.line.ready = false ∧ ∃ ts, s.turns = .op 0x40#8 :: ts) ∨ (s.line.ready = true ∧ ∃ ts, s.turns = .op 0x41#8 :: ts)

/-- R34: the debug-echo flag has no effect on any other state, on any response or on TRACE: two states that differ only in it
step to states that differ only in it. -/
def Obligations.DebugEchoHasNoEffect : Prop :=
  ∀ s s' : State, s.withoutEcho = s'.withoutEcho →
    onNext State.withoutEcho (step s) = onNext State.withoutEcho (step s')

/-- R30, R31, R19: the slots outside the live window of a queue, and where the window stands, cannot be observed: two states
with well-formed queues that differ only there step to states that differ only there, and so give the same
RESP and the same TRACE. -/
def Obligations.UnusedSlotsCannotBeObserved : Prop :=
  ∀ s s' : State, s.txq.wf s.par → s.rxq.wf s.par → s'.txq.wf s'.par → s'.rxq.wf s'.par →
    s.observed = s'.observed → onNext State.observed (step s) = onNext State.observed (step s')
end

