-- ==== Sys2Proof/Laws/State.lean ====
section
/-! SUPPORT. Reading one field of the state after one of the named updates: one lemma a field, so that no proof unfolds a
record update. -/

namespace Sys2Proof.Machine

open Sys2Proof

/-! ### emit -/

@[simp] theorem emit_par (e : Event) (s : State) : (emit e s).par = s.par := rfl
@[simp] theorem emit_txq (e : Event) (s : State) : (emit e s).txq = s.txq := rfl
@[simp] theorem emit_rxq (e : Event) (s : State) : (emit e s).rxq = s.rxq := rfl
@[simp] theorem emit_cfg (e : Event) (s : State) : (emit e s).cfg = s.cfg := rfl
@[simp] theorem emit_line (e : Event) (s : State) : (emit e s).line = s.line := rfl
@[simp] theorem emit_wake (e : Event) (s : State) : (emit e s).wake = s.wake := rfl
@[simp] theorem emit_inited (e : Event) (s : State) : (emit e s).inited = s.inited := rfl
@[simp] theorem emit_halted (e : Event) (s : State) : (emit e s).halted = s.halted := rfl
@[simp] theorem emit_te (e : Event) (s : State) : (emit e s).te = s.te := rfl
@[simp] theorem emit_fg (e : Event) (s : State) : (emit e s).fg = s.fg := rfl
@[simp] theorem emit_opframe (e : Event) (s : State) : (emit e s).opframe = s.opframe := rfl
@[simp] theorem emit_opcfg (e : Event) (s : State) : (emit e s).opcfg = s.opcfg := rfl
@[simp] theorem emit_resp (e : Event) (s : State) : (emit e s).resp = s.resp := rfl
@[simp] theorem emit_trace (e : Event) (s : State) : (emit e s).trace = s.trace ++ [e] := rfl
@[simp] theorem emit_port (e : Event) (s : State) : (emit e s).port = s.port := rfl
@[simp] theorem emit_turns (e : Event) (s : State) : (emit e s).turns = s.turns := rfl
@[simp] theorem emit_replies (e : Event) (s : State) : (emit e s).replies = s.replies := rfl
@[simp] theorem emit_drawn (e : Event) (s : State) : (emit e s).drawn = s.drawn := rfl
@[simp] theorem emit_result (e : Event) (s : State) : (emit e s).result = s.result := rfl

/-! ### respondWith -/

@[simp] theorem respondWith_par (op : Byte) (r : Response) (s : State) : (respondWith op r s).par = s.par := rfl
@[simp] theorem respondWith_txq (op : Byte) (r : Response) (s : State) : (respondWith op r s).txq = s.txq := rfl
@[simp] theorem respondWith_rxq (op : Byte) (r : Response) (s : State) : (respondWith op r s).rxq = s.rxq := rfl
@[simp] theorem respondWith_cfg (op : Byte) (r : Response) (s : State) : (respondWith op r s).cfg = s.cfg := rfl
@[simp] theorem respondWith_line (op : Byte) (r : Response) (s : State) : (respondWith op r s).line = s.line := rfl
@[simp] theorem respondWith_wake (op : Byte) (r : Response) (s : State) : (respondWith op r s).wake = s.wake := rfl
@[simp] theorem respondWith_inited (op : Byte) (r : Response) (s : State) : (respondWith op r s).inited = s.inited := rfl
@[simp] theorem respondWith_halted (op : Byte) (r : Response) (s : State) : (respondWith op r s).halted = s.halted := rfl
@[simp] theorem respondWith_te (op : Byte) (r : Response) (s : State) : (respondWith op r s).te = s.te := rfl
@[simp] theorem respondWith_fg (op : Byte) (r : Response) (s : State) : (respondWith op r s).fg = { s.fg with phase := .idle } := rfl
@[simp] theorem respondWith_opframe (op : Byte) (r : Response) (s : State) : (respondWith op r s).opframe = s.opframe := rfl
@[simp] theorem respondWith_opcfg (op : Byte) (r : Response) (s : State) : (respondWith op r s).opcfg = s.opcfg := rfl
@[simp] theorem respondWith_resp (op : Byte) (r : Response) (s : State) : (respondWith op r s).resp = r := rfl
@[simp] theorem respondWith_trace (op : Byte) (r : Response) (s : State) : (respondWith op r s).trace = s.trace ++ [.resp op r] := rfl
@[simp] theorem respondWith_port (op : Byte) (r : Response) (s : State) : (respondWith op r s).port = s.port := rfl
@[simp] theorem respondWith_turns (op : Byte) (r : Response) (s : State) : (respondWith op r s).turns = s.turns := rfl
@[simp] theorem respondWith_replies (op : Byte) (r : Response) (s : State) : (respondWith op r s).replies = s.replies := rfl
@[simp] theorem respondWith_drawn (op : Byte) (r : Response) (s : State) : (respondWith op r s).drawn = s.drawn := rfl
@[simp] theorem respondWith_result (op : Byte) (r : Response) (s : State) : (respondWith op r s).result = s.result := rfl

/-! ### fatalHalt -/

@[simp] theorem fatalHalt_par (s : State) : (fatalHalt s).par = s.par := rfl
@[simp] theorem fatalHalt_txq (s : State) : (fatalHalt s).txq = s.txq := rfl
@[simp] theorem fatalHalt_rxq (s : State) : (fatalHalt s).rxq = s.rxq := rfl
@[simp] theorem fatalHalt_cfg (s : State) : (fatalHalt s).cfg = s.cfg := rfl
@[simp] theorem fatalHalt_line (s : State) : (fatalHalt s).line = s.line := rfl
@[simp] theorem fatalHalt_wake (s : State) : (fatalHalt s).wake = s.wake := rfl
@[simp] theorem fatalHalt_inited (s : State) : (fatalHalt s).inited = s.inited := rfl
@[simp] theorem fatalHalt_halted (s : State) : (fatalHalt s).halted = true := rfl
@[simp] theorem fatalHalt_te (s : State) : (fatalHalt s).te = s.te := rfl
@[simp] theorem fatalHalt_fg (s : State) : (fatalHalt s).fg = s.fg := rfl
@[simp] theorem fatalHalt_opframe (s : State) : (fatalHalt s).opframe = s.opframe := rfl
@[simp] theorem fatalHalt_opcfg (s : State) : (fatalHalt s).opcfg = s.opcfg := rfl
@[simp] theorem fatalHalt_resp (s : State) : (fatalHalt s).resp = s.resp := rfl
@[simp] theorem fatalHalt_trace (s : State) : (fatalHalt s).trace = s.trace ++ [.halt Code.fatalRxOverrun.toByte] := rfl
@[simp] theorem fatalHalt_port (s : State) : (fatalHalt s).port = s.port := rfl
@[simp] theorem fatalHalt_turns (s : State) : (fatalHalt s).turns = s.turns := rfl
@[simp] theorem fatalHalt_replies (s : State) : (fatalHalt s).replies = s.replies := rfl
@[simp] theorem fatalHalt_drawn (s : State) : (fatalHalt s).drawn = s.drawn := rfl
@[simp] theorem fatalHalt_result (s : State) : (fatalHalt s).result = s.result := rfl

/-! ### irqEnter -/

@[simp] theorem irqEnter_par (s : State) : (irqEnter s).par = s.par := rfl
@[simp] theorem irqEnter_txq (s : State) : (irqEnter s).txq = s.txq := rfl
@[simp] theorem irqEnter_rxq (s : State) : (irqEnter s).rxq = s.rxq := rfl
@[simp] theorem irqEnter_cfg (s : State) : (irqEnter s).cfg = s.cfg := rfl
@[simp] theorem irqEnter_line (s : State) : (irqEnter s).line = s.line := rfl
@[simp] theorem irqEnter_wake (s : State) : (irqEnter s).wake = { s.wake with pending := false } := rfl
@[simp] theorem irqEnter_inited (s : State) : (irqEnter s).inited = s.inited := rfl
@[simp] theorem irqEnter_halted (s : State) : (irqEnter s).halted = s.halted := rfl
@[simp] theorem irqEnter_te (s : State) : (irqEnter s).te = s.te := rfl
@[simp] theorem irqEnter_fg (s : State) : (irqEnter s).fg = s.fg := rfl
@[simp] theorem irqEnter_opframe (s : State) : (irqEnter s).opframe = s.opframe := rfl
@[simp] theorem irqEnter_opcfg (s : State) : (irqEnter s).opcfg = s.opcfg := rfl
@[simp] theorem irqEnter_resp (s : State) : (irqEnter s).resp = s.resp := rfl
@[simp] theorem irqEnter_trace (s : State) : (irqEnter s).trace = s.trace := rfl
@[simp] theorem irqEnter_port (s : State) : (irqEnter s).port = s.port := rfl
@[simp] theorem irqEnter_turns (s : State) : (irqEnter s).turns = s.turns := rfl
@[simp] theorem irqEnter_replies (s : State) : (irqEnter s).replies = s.replies := rfl
@[simp] theorem irqEnter_drawn (s : State) : (irqEnter s).drawn = s.drawn := rfl
@[simp] theorem irqEnter_result (s : State) : (irqEnter s).result = s.result := rfl

/-! ### setQueue_tx -/

@[simp] theorem setQueue_tx_par (v : Queue) (s : State) : (setQueue .tx v s).par = s.par := rfl
@[simp] theorem setQueue_tx_txq (v : Queue) (s : State) : (setQueue .tx v s).txq = v := rfl
@[simp] theorem setQueue_tx_rxq (v : Queue) (s : State) : (setQueue .tx v s).rxq = s.rxq := rfl
@[simp] theorem setQueue_tx_cfg (v : Queue) (s : State) : (setQueue .tx v s).cfg = s.cfg := rfl
@[simp] theorem setQueue_tx_line (v : Queue) (s : State) : (setQueue .tx v s).line = s.line := rfl
@[simp] theorem setQueue_tx_wake (v : Queue) (s : State) : (setQueue .tx v s).wake = s.wake := rfl
@[simp] theorem setQueue_tx_inited (v : Queue) (s : State) : (setQueue .tx v s).inited = s.inited := rfl
@[simp] theorem setQueue_tx_halted (v : Queue) (s : State) : (setQueue .tx v s).halted = s.halted := rfl
@[simp] theorem setQueue_tx_te (v : Queue) (s : State) : (setQueue .tx v s).te = s.te := rfl
@[simp] theorem setQueue_tx_fg (v : Queue) (s : State) : (setQueue .tx v s).fg = s.fg := rfl
@[simp] theorem setQueue_tx_opframe (v : Queue) (s : State) : (setQueue .tx v s).opframe = s.opframe := rfl
@[simp] theorem setQueue_tx_opcfg (v : Queue) (s : State) : (setQueue .tx v s).opcfg = s.opcfg := rfl
@[simp] theorem setQueue_tx_resp (v : Queue) (s : State) : (setQueue .tx v s).resp = s.resp := rfl
@[simp] theorem setQueue_tx_trace (v : Queue) (s : State) : (setQueue .tx v s).trace = s.trace := rfl
@[simp] theorem setQueue_tx_port (v : Queue) (s : State) : (setQueue .tx v s).port = s.port := rfl
@[simp] theorem setQueue_tx_turns (v : Queue) (s : State) : (setQueue .tx v s).turns = s.turns := rfl
@[simp] theorem setQueue_tx_replies (v : Queue) (s : State) : (setQueue .tx v s).replies = s.replies := rfl
@[simp] theorem setQueue_tx_drawn (v : Queue) (s : State) : (setQueue .tx v s).drawn = s.drawn := rfl
@[simp] theorem setQueue_tx_result (v : Queue) (s : State) : (setQueue .tx v s).result = s.result := rfl

/-! ### setQueue_rx -/

@[simp] theorem setQueue_rx_par (v : Queue) (s : State) : (setQueue .rx v s).par = s.par := rfl
@[simp] theorem setQueue_rx_txq (v : Queue) (s : State) : (setQueue .rx v s).txq = s.txq := rfl
@[simp] theorem setQueue_rx_rxq (v : Queue) (s : State) : (setQueue .rx v s).rxq = v := rfl
@[simp] theorem setQueue_rx_cfg (v : Queue) (s : State) : (setQueue .rx v s).cfg = s.cfg := rfl
@[simp] theorem setQueue_rx_line (v : Queue) (s : State) : (setQueue .rx v s).line = s.line := rfl
@[simp] theorem setQueue_rx_wake (v : Queue) (s : State) : (setQueue .rx v s).wake = s.wake := rfl
@[simp] theorem setQueue_rx_inited (v : Queue) (s : State) : (setQueue .rx v s).inited = s.inited := rfl
@[simp] theorem setQueue_rx_halted (v : Queue) (s : State) : (setQueue .rx v s).halted = s.halted := rfl
@[simp] theorem setQueue_rx_te (v : Queue) (s : State) : (setQueue .rx v s).te = s.te := rfl
@[simp] theorem setQueue_rx_fg (v : Queue) (s : State) : (setQueue .rx v s).fg = s.fg := rfl
@[simp] theorem setQueue_rx_opframe (v : Queue) (s : State) : (setQueue .rx v s).opframe = s.opframe := rfl
@[simp] theorem setQueue_rx_opcfg (v : Queue) (s : State) : (setQueue .rx v s).opcfg = s.opcfg := rfl
@[simp] theorem setQueue_rx_resp (v : Queue) (s : State) : (setQueue .rx v s).resp = s.resp := rfl
@[simp] theorem setQueue_rx_trace (v : Queue) (s : State) : (setQueue .rx v s).trace = s.trace := rfl
@[simp] theorem setQueue_rx_port (v : Queue) (s : State) : (setQueue .rx v s).port = s.port := rfl
@[simp] theorem setQueue_rx_turns (v : Queue) (s : State) : (setQueue .rx v s).turns = s.turns := rfl
@[simp] theorem setQueue_rx_replies (v : Queue) (s : State) : (setQueue .rx v s).replies = s.replies := rfl
@[simp] theorem setQueue_rx_drawn (v : Queue) (s : State) : (setQueue .rx v s).drawn = s.drawn := rfl
@[simp] theorem setQueue_rx_result (v : Queue) (s : State) : (setQueue .rx v s).result = s.result := rfl

/-! ### reqAssert -/

@[simp] theorem reqAssert_par (s : State) : (reqAssert s).par = s.par := rfl
@[simp] theorem reqAssert_txq (s : State) : (reqAssert s).txq = s.txq := rfl
@[simp] theorem reqAssert_rxq (s : State) : (reqAssert s).rxq = s.rxq := rfl
@[simp] theorem reqAssert_cfg (s : State) : (reqAssert s).cfg = s.cfg := rfl
@[simp] theorem reqAssert_line (s : State) : (reqAssert s).line = { s.line with req := true } := rfl
@[simp] theorem reqAssert_wake (s : State) : (reqAssert s).wake = s.wake := rfl
@[simp] theorem reqAssert_inited (s : State) : (reqAssert s).inited = s.inited := rfl
@[simp] theorem reqAssert_halted (s : State) : (reqAssert s).halted = s.halted := rfl
@[simp] theorem reqAssert_te (s : State) : (reqAssert s).te = s.te := rfl
@[simp] theorem reqAssert_fg (s : State) : (reqAssert s).fg = s.fg := rfl
@[simp] theorem reqAssert_opframe (s : State) : (reqAssert s).opframe = s.opframe := rfl
@[simp] theorem reqAssert_opcfg (s : State) : (reqAssert s).opcfg = s.opcfg := rfl
@[simp] theorem reqAssert_resp (s : State) : (reqAssert s).resp = s.resp := rfl
@[simp] theorem reqAssert_trace (s : State) : (reqAssert s).trace = s.trace ++ [.write .req true] := rfl
@[simp] theorem reqAssert_port (s : State) : (reqAssert s).port = s.port := rfl
@[simp] theorem reqAssert_turns (s : State) : (reqAssert s).turns = s.turns := rfl
@[simp] theorem reqAssert_replies (s : State) : (reqAssert s).replies = s.replies := rfl
@[simp] theorem reqAssert_drawn (s : State) : (reqAssert s).drawn = s.drawn := rfl
@[simp] theorem reqAssert_result (s : State) : (reqAssert s).result = s.result := rfl

/-! ### reqDeassert -/

@[simp] theorem reqDeassert_par (s : State) : (reqDeassert s).par = s.par := rfl
@[simp] theorem reqDeassert_txq (s : State) : (reqDeassert s).txq = s.txq := rfl
@[simp] theorem reqDeassert_rxq (s : State) : (reqDeassert s).rxq = s.rxq := rfl
@[simp] theorem reqDeassert_cfg (s : State) : (reqDeassert s).cfg = s.cfg := rfl
@[simp] theorem reqDeassert_line (s : State) : (reqDeassert s).line = { s.line with req := false } := rfl
@[simp] theorem reqDeassert_wake (s : State) : (reqDeassert s).wake = s.wake := rfl
@[simp] theorem reqDeassert_inited (s : State) : (reqDeassert s).inited = s.inited := rfl
@[simp] theorem reqDeassert_halted (s : State) : (reqDeassert s).halted = s.halted := rfl
@[simp] theorem reqDeassert_te (s : State) : (reqDeassert s).te = s.te := rfl
@[simp] theorem reqDeassert_fg (s : State) : (reqDeassert s).fg = s.fg := rfl
@[simp] theorem reqDeassert_opframe (s : State) : (reqDeassert s).opframe = s.opframe := rfl
@[simp] theorem reqDeassert_opcfg (s : State) : (reqDeassert s).opcfg = s.opcfg := rfl
@[simp] theorem reqDeassert_resp (s : State) : (reqDeassert s).resp = s.resp := rfl
@[simp] theorem reqDeassert_trace (s : State) : (reqDeassert s).trace = s.trace ++ [.write .req false] := rfl
@[simp] theorem reqDeassert_port (s : State) : (reqDeassert s).port = s.port := rfl
@[simp] theorem reqDeassert_turns (s : State) : (reqDeassert s).turns = s.turns := rfl
@[simp] theorem reqDeassert_replies (s : State) : (reqDeassert s).replies = s.replies := rfl
@[simp] theorem reqDeassert_drawn (s : State) : (reqDeassert s).drawn = s.drawn := rfl
@[simp] theorem reqDeassert_result (s : State) : (reqDeassert s).result = s.result := rfl

/-! ### wakeArm -/

@[simp] theorem wakeArm_par (s : State) : (wakeArm s).par = s.par := rfl
@[simp] theorem wakeArm_txq (s : State) : (wakeArm s).txq = s.txq := rfl
@[simp] theorem wakeArm_rxq (s : State) : (wakeArm s).rxq = s.rxq := rfl
@[simp] theorem wakeArm_cfg (s : State) : (wakeArm s).cfg = s.cfg := rfl
@[simp] theorem wakeArm_line (s : State) : (wakeArm s).line = s.line := rfl
@[simp] theorem wakeArm_wake (s : State) : (wakeArm s).wake = { armed := true, pending := s.wake.pending || (s.par.armSamplesLevel && s.line.ready) } := rfl
@[simp] theorem wakeArm_inited (s : State) : (wakeArm s).inited = s.inited := rfl
@[simp] theorem wakeArm_halted (s : State) : (wakeArm s).halted = s.halted := rfl
@[simp] theorem wakeArm_te (s : State) : (wakeArm s).te = s.te := rfl
@[simp] theorem wakeArm_fg (s : State) : (wakeArm s).fg = s.fg := rfl
@[simp] theorem wakeArm_opframe (s : State) : (wakeArm s).opframe = s.opframe := rfl
@[simp] theorem wakeArm_opcfg (s : State) : (wakeArm s).opcfg = s.opcfg := rfl
@[simp] theorem wakeArm_resp (s : State) : (wakeArm s).resp = s.resp := rfl
@[simp] theorem wakeArm_trace (s : State) : (wakeArm s).trace = s.trace ++ [.arm .falling] := rfl
@[simp] theorem wakeArm_port (s : State) : (wakeArm s).port = s.port := rfl
@[simp] theorem wakeArm_turns (s : State) : (wakeArm s).turns = s.turns := rfl
@[simp] theorem wakeArm_replies (s : State) : (wakeArm s).replies = s.replies := rfl
@[simp] theorem wakeArm_drawn (s : State) : (wakeArm s).drawn = s.drawn := rfl
@[simp] theorem wakeArm_result (s : State) : (wakeArm s).result = s.result := rfl

/-! ### wakeDisarm -/

@[simp] theorem wakeDisarm_par (s : State) : (wakeDisarm s).par = s.par := rfl
@[simp] theorem wakeDisarm_txq (s : State) : (wakeDisarm s).txq = s.txq := rfl
@[simp] theorem wakeDisarm_rxq (s : State) : (wakeDisarm s).rxq = s.rxq := rfl
@[simp] theorem wakeDisarm_cfg (s : State) : (wakeDisarm s).cfg = s.cfg := rfl
@[simp] theorem wakeDisarm_line (s : State) : (wakeDisarm s).line = s.line := rfl
@[simp] theorem wakeDisarm_wake (s : State) : (wakeDisarm s).wake = { armed := false, pending := false } := rfl
@[simp] theorem wakeDisarm_inited (s : State) : (wakeDisarm s).inited = s.inited := rfl
@[simp] theorem wakeDisarm_halted (s : State) : (wakeDisarm s).halted = s.halted := rfl
@[simp] theorem wakeDisarm_te (s : State) : (wakeDisarm s).te = s.te := rfl
@[simp] theorem wakeDisarm_fg (s : State) : (wakeDisarm s).fg = s.fg := rfl
@[simp] theorem wakeDisarm_opframe (s : State) : (wakeDisarm s).opframe = s.opframe := rfl
@[simp] theorem wakeDisarm_opcfg (s : State) : (wakeDisarm s).opcfg = s.opcfg := rfl
@[simp] theorem wakeDisarm_resp (s : State) : (wakeDisarm s).resp = s.resp := rfl
@[simp] theorem wakeDisarm_trace (s : State) : (wakeDisarm s).trace = s.trace ++ [.disarm] := rfl
@[simp] theorem wakeDisarm_port (s : State) : (wakeDisarm s).port = s.port := rfl
@[simp] theorem wakeDisarm_turns (s : State) : (wakeDisarm s).turns = s.turns := rfl
@[simp] theorem wakeDisarm_replies (s : State) : (wakeDisarm s).replies = s.replies := rfl
@[simp] theorem wakeDisarm_drawn (s : State) : (wakeDisarm s).drawn = s.drawn := rfl
@[simp] theorem wakeDisarm_result (s : State) : (wakeDisarm s).result = s.result := rfl

/-! ### takeReply -/

@[simp] theorem takeReply_par (s : State) : (takeReply s).par = s.par := by
  unfold takeReply; split <;> simp_all
@[simp] theorem takeReply_txq (s : State) : (takeReply s).txq = s.txq := by
  unfold takeReply; split <;> simp_all
@[simp] theorem takeReply_rxq (s : State) : (takeReply s).rxq = s.rxq := by
  unfold takeReply; split <;> simp_all
@[simp] theorem takeReply_cfg (s : State) : (takeReply s).cfg = s.cfg := by
  unfold takeReply; split <;> simp_all
@[simp] theorem takeReply_line (s : State) : (takeReply s).line = s.line := by
  unfold takeReply; split <;> simp_all
@[simp] theorem takeReply_wake (s : State) : (takeReply s).wake = s.wake := by
  unfold takeReply; split <;> simp_all
@[simp] theorem takeReply_inited (s : State) : (takeReply s).inited = s.inited := by
  unfold takeReply; split <;> simp_all
@[simp] theorem takeReply_halted (s : State) : (takeReply s).halted = s.halted := by
  unfold takeReply; split <;> simp_all
@[simp] theorem takeReply_te (s : State) : (takeReply s).te = s.te := by
  unfold takeReply; split <;> simp_all
@[simp] theorem takeReply_fg (s : State) : (takeReply s).fg = s.fg := by
  unfold takeReply; split <;> simp_all
@[simp] theorem takeReply_opframe (s : State) : (takeReply s).opframe = s.opframe := by
  unfold takeReply; split <;> simp_all
@[simp] theorem takeReply_opcfg (s : State) : (takeReply s).opcfg = s.opcfg := by
  unfold takeReply; split <;> simp_all
@[simp] theorem takeReply_resp (s : State) : (takeReply s).resp = s.resp := by
  unfold takeReply; split <;> simp_all
@[simp] theorem takeReply_trace (s : State) : (takeReply s).trace = s.trace := by
  unfold takeReply; split <;> simp_all
@[simp] theorem takeReply_port (s : State) : (takeReply s).port = s.port := by
  unfold takeReply; split <;> simp_all
@[simp] theorem takeReply_turns (s : State) : (takeReply s).turns = s.turns := by
  unfold takeReply; split <;> simp_all
@[simp] theorem takeReply_replies (s : State) : (takeReply s).replies = s.replies.tail := by
  unfold takeReply; split <;> simp_all
@[simp] theorem takeReply_drawn (s : State) : (takeReply s).drawn = if s.replies = [] then s.drawn + 1 else s.drawn := by
  unfold takeReply; split <;> simp_all
@[simp] theorem takeReply_result (s : State) : (takeReply s).result = s.result := by
  unfold takeReply; split <;> simp_all

/-! ### xchg -/

@[simp] theorem xchg_par (b : Byte) (s : State) : (xchg b s).par = s.par := by simp [xchg]
@[simp] theorem xchg_txq (b : Byte) (s : State) : (xchg b s).txq = s.txq := by simp [xchg]
@[simp] theorem xchg_rxq (b : Byte) (s : State) : (xchg b s).rxq = s.rxq := by simp [xchg]
@[simp] theorem xchg_cfg (b : Byte) (s : State) : (xchg b s).cfg = s.cfg := by simp [xchg]
@[simp] theorem xchg_line (b : Byte) (s : State) : (xchg b s).line = s.line := by simp [xchg]
@[simp] theorem xchg_wake (b : Byte) (s : State) : (xchg b s).wake = s.wake := by simp [xchg]
@[simp] theorem xchg_inited (b : Byte) (s : State) : (xchg b s).inited = s.inited := by simp [xchg]
@[simp] theorem xchg_halted (b : Byte) (s : State) : (xchg b s).halted = s.halted := by simp [xchg]
@[simp] theorem xchg_te (b : Byte) (s : State) : (xchg b s).te = s.te := by simp [xchg]
@[simp] theorem xchg_fg (b : Byte) (s : State) : (xchg b s).fg = s.fg := by simp [xchg]
@[simp] theorem xchg_opframe (b : Byte) (s : State) : (xchg b s).opframe = s.opframe := by simp [xchg]
@[simp] theorem xchg_opcfg (b : Byte) (s : State) : (xchg b s).opcfg = s.opcfg := by simp [xchg]
@[simp] theorem xchg_resp (b : Byte) (s : State) : (xchg b s).resp = s.resp := by simp [xchg]
@[simp] theorem xchg_trace (b : Byte) (s : State) : (xchg b s).trace = s.trace ++ [.xchg b (nextReply s)] := by simp [xchg]
@[simp] theorem xchg_port (b : Byte) (s : State) : (xchg b s).port = s.port := by simp [xchg]
@[simp] theorem xchg_turns (b : Byte) (s : State) : (xchg b s).turns = s.turns := by simp [xchg]
@[simp] theorem xchg_replies (b : Byte) (s : State) : (xchg b s).replies = s.replies.tail := by simp [xchg]
@[simp] theorem xchg_drawn (b : Byte) (s : State) : (xchg b s).drawn = if s.replies = [] then s.drawn + 1 else s.drawn := by simp [xchg]
@[simp] theorem xchg_result (b : Byte) (s : State) : (xchg b s).result = s.result := by simp [xchg]

/-! ### resetPulse -/

@[simp] theorem resetPulse_par (s : State) : (resetPulse s).par = s.par := by
  unfold resetPulse; split <;> simp [*]
@[simp] theorem resetPulse_txq (s : State) : (resetPulse s).txq = s.txq := by
  unfold resetPulse; split <;> simp [*]
@[simp] theorem resetPulse_rxq (s : State) : (resetPulse s).rxq = s.rxq := by
  unfold resetPulse; split <;> simp [*]
@[simp] theorem resetPulse_cfg (s : State) : (resetPulse s).cfg = s.cfg := by
  unfold resetPulse; split <;> simp [*]
@[simp] theorem resetPulse_line (s : State) : (resetPulse s).line = { s.line with rst := some (decide (s.cfg.variant = 0x00#8)) } := by
  unfold resetPulse; split <;> simp [*]
@[simp] theorem resetPulse_wake (s : State) : (resetPulse s).wake = s.wake := by
  unfold resetPulse; split <;> simp [*]
@[simp] theorem resetPulse_inited (s : State) : (resetPulse s).inited = s.inited := by
  unfold resetPulse; split <;> simp [*]
@[simp] theorem resetPulse_halted (s : State) : (resetPulse s).halted = s.halted := by
  unfold resetPulse; split <;> simp [*]
@[simp] theorem resetPulse_te (s : State) : (resetPulse s).te = s.te := by
  unfold resetPulse; split <;> simp [*]
@[simp] theorem resetPulse_fg (s : State) : (resetPulse s).fg = s.fg := by
  unfold resetPulse; split <;> simp [*]
@[simp] theorem resetPulse_opframe (s : State) : (resetPulse s).opframe = s.opframe := by
  unfold resetPulse; split <;> simp [*]
@[simp] theorem resetPulse_opcfg (s : State) : (resetPulse s).opcfg = s.opcfg := by
  unfold resetPulse; split <;> simp [*]
@[simp] theorem resetPulse_resp (s : State) : (resetPulse s).resp = s.resp := by
  unfold resetPulse; split <;> simp [*]
@[simp] theorem resetPulse_trace (s : State) : (resetPulse s).trace = s.trace ++
    (if s.cfg.variant = 0x00#8 then [.write .rst true, .write .rst false, .write .rst true]
     else [.write .rst true, .delay s.par.tResetLong, .write .rst false]) := by
  unfold resetPulse; split <;> simp
@[simp] theorem resetPulse_port (s : State) : (resetPulse s).port = s.port := by
  unfold resetPulse; split <;> simp [*]
@[simp] theorem resetPulse_turns (s : State) : (resetPulse s).turns = s.turns := by
  unfold resetPulse; split <;> simp [*]
@[simp] theorem resetPulse_replies (s : State) : (resetPulse s).replies = s.replies := by
  unfold resetPulse; split <;> simp [*]
@[simp] theorem resetPulse_drawn (s : State) : (resetPulse s).drawn = s.drawn := by
  unfold resetPulse; split <;> simp [*]
@[simp] theorem resetPulse_result (s : State) : (resetPulse s).result = s.result := by
  unfold resetPulse; split <;> simp [*]

/-! ### The shorthands for a response -/

@[simp] theorem respond_eq (op : Byte) (code : Code) (flag : Bool) (frame : Option Frame) (s : State) :
    respond op code flag frame s = respondWith op { code := code, flag := flag, frame := frame } s := rfl

@[simp] theorem reject_eq (op : Byte) (code : Code) (s : State) :
    reject op code s = respondWith op { code := code, flag := false, frame := none } s := rfl

@[simp] theorem irqReturn_eq (s : State) : irqReturn s = s := rfl

end Sys2Proof.Machine
end

