-- ==== Sys2Proof/Laws/Queue.lean ====
section
/-! SUPPORT. The queue operations: which queue they touch, what they do to its contents (R30, R122 to R124), and that they
keep the invariants of R26. -/

namespace Sys2Proof.Machine

open Sys2Proof

/-! ### Which queue -/

@[simp] theorem queue_tx (s : State) : s.queue .tx = s.txq := rfl
@[simp] theorem queue_rx (s : State) : s.queue .rx = s.rxq := rfl

@[simp] theorem setQueue_queue_same (q : QueueSel) (v : Queue) (s : State) : (setQueue q v s).queue q = v := by
  cases q <;> rfl

theorem setQueue_queue_other {q q' : QueueSel} (h : q ≠ q') (v : Queue) (s : State) :
    (setQueue q v s).queue q' = s.queue q' := by
  cases q <;> cases q' <;> first | exact absurd rfl h | rfl

@[simp] theorem setQueue_par (q : QueueSel) (v : Queue) (s : State) : (setQueue q v s).par = s.par := by
  cases q <;> rfl

theorem qFull_iff (q : QueueSel) (s : State) : s.qFull q = true ↔ (s.queue q).count = s.par.capacity := by
  simp [State.qFull, Queue.full]

theorem qFull_eq_false_iff (q : QueueSel) (s : State) :
    s.qFull q = false ↔ (s.queue q).count ≠ s.par.capacity := by
  simp [State.qFull, Queue.full]

theorem qEmpty_iff (q : QueueSel) (s : State) : s.qEmpty q = true ↔ (s.queue q).count = 0 := by
  simp [State.qEmpty, Queue.empty]

theorem qEmpty_eq_false_iff (q : QueueSel) (s : State) : s.qEmpty q = false ↔ (s.queue q).count ≠ 0 := by
  simp [State.qEmpty, Queue.empty]

/-! ### Contents -/

@[simp] theorem contents_length (p : Params) (q : Queue) : (q.contents p).length = q.count := by
  simp [Queue.contents]

theorem contents_getElem? (p : Params) (q : Queue) (i : Nat) (h : i < q.count) :
    (q.contents p)[i]? = some (q.slots.getD ((q.head + i) % p.capacity) (Frame.zero p.maxLength)) := by
  simp [Queue.contents, h]

theorem contents_of_empty (p : Params) (q : Queue) (h : q.count = 0) : q.contents p = [] := by
  simp [Queue.contents, h]

/-- The slot of a position of the live window is not the one the next enqueue writes. -/
theorem window_slot_ne_tail {c head count i : Nat} (hc : head < c) (hn : count < c) (hi : i < count) :
    (head + i) % c ≠ (head + count) % c := by
  intro h
  have h1 : (head + i) % c = if head + i < c then head + i else head + i - c := by
    split
    · exact Nat.mod_eq_of_lt ‹_›
    · rw [Nat.mod_eq_sub_mod (by omega), Nat.mod_eq_of_lt (by omega)]
  have h2 : (head + count) % c = if head + count < c then head + count else head + count - c := by
    split
    · exact Nat.mod_eq_of_lt ‹_›
    · rw [Nat.mod_eq_sub_mod (by omega), Nat.mod_eq_of_lt (by omega)]
  rw [h1, h2] at h
  split at h <;> split at h <;> omega

/-- R30: an enqueue appends at the end. -/
theorem contents_push (p : Params) (q : Queue) (f : Frame) (h : q.wf p) (hn : q.count ≠ p.capacity) :
    (q.push p.capacity f).contents p = q.contents p ++ [f] := by
  obtain ⟨hl, hh, ht, hc, hw, -⟩ := h
  have hlt : q.count < p.capacity := by omega
  simp only [Queue.contents, Queue.push, List.range_succ, List.map_append, List.map_cons, List.map_nil]
  congr 1
  · apply List.map_congr_left
    intro i hi
    have hne : (q.head + i) % p.capacity ≠ q.tail := by
      rw [hw]; exact window_slot_ne_tail hh hlt (by simpa using hi)
    simp [List.getD_eq_getElem?_getD, List.getElem?_set_ne (Ne.symm hne)]
  · rw [← hw]
    simp [List.getD_eq_getElem?_getD, hl, ht]

/-- R30: the frame at `head` is the first of the contents. -/
theorem contents_front (p : Params) (q : Queue) (h : q.wf p) (hn : q.count ≠ 0) :
    (q.contents p).head? = some (q.front p.maxLength) := by
  obtain ⟨-, hh, -, -, -, -⟩ := h
  have h0 := contents_getElem? p q 0 (by omega)
  rw [List.head?_eq_getElem?, h0]
  simp [Queue.front, Nat.mod_eq_of_lt hh]

/-- R30: a dequeue removes the first of the contents. -/
theorem contents_pop (p : Params) (q : Queue) : (q.pop p.capacity).contents p = (q.contents p).tail := by
  apply List.ext_getElem?
  intro i
  rw [List.getElem?_tail]
  by_cases hi : i + 1 < q.count
  · rw [contents_getElem? p q (i + 1) hi, contents_getElem? p (q.pop p.capacity) i (by simp [Queue.pop]; omega)]
    simp only [Queue.pop, Nat.mod_add_mod]
    congr 3
    omega
  · rw [List.getElem?_eq_none (by simp [Queue.pop]; omega), List.getElem?_eq_none (by simp; omega)]

theorem contents_eq_front_cons (p : Params) (q : Queue) (h : q.wf p) (hn : q.count ≠ 0) :
    q.contents p = q.front p.maxLength :: (q.pop p.capacity).contents p := by
  rw [contents_pop]
  have h1 := contents_front p q h hn
  cases hc : q.contents p with
  | nil => simp [hc] at h1
  | cons a l => simp [hc] at h1; simp [h1]

/-! ### The invariants of R26 are kept -/

theorem wf_push (p : Params) (q : Queue) (f : Frame) (h : q.wf p) (hn : q.count ≠ p.capacity)
    (hf : f.shaped p.maxLength = true) : (q.push p.capacity f).wf p := by
  obtain ⟨hl, hh, ht, hc, hw, hs⟩ := h
  refine ⟨by simp [Queue.push, hl], hh, Nat.mod_lt _ (by omega), by simp [Queue.push]; omega, ?_, ?_⟩
  · simp only [Queue.push]
    conv_lhs => rw [hw]
    simp [Nat.mod_add_mod, Nat.add_assoc]
  · intro g hg
    rcases List.mem_or_eq_of_mem_set hg with hg | rfl
    · exact hs g hg
    · exact hf

theorem wf_pop (p : Params) (q : Queue) (h : q.wf p) (hn : q.count ≠ 0) : (q.pop p.capacity).wf p := by
  obtain ⟨hl, hh, ht, hc, hw, hs⟩ := h
  refine ⟨hl, Nat.mod_lt _ (by omega), ht, by simp [Queue.pop]; omega, ?_, hs⟩
  simp only [Queue.pop]
  rw [hw, Nat.mod_add_mod]
  congr 1
  omega

theorem wf_init (p : Params) (q : Queue) (h : q.wf p) : ({ q with head := 0, tail := 0, count := 0 } : Queue).wf p := by
  obtain ⟨hl, hh, ht, hc, hw, hs⟩ := h
  exact ⟨hl, by simp; omega, by simp; omega, by simp, by simp, hs⟩

theorem wf_powerOn (p : Params) (h : 0 < p.capacity) : (Queue.powerOn p).wf p := by
  refine ⟨by simp [Queue.powerOn], h, h, by simp [Queue.powerOn], by simp [Queue.powerOn], ?_⟩
  intro f hf
  simp [Queue.powerOn] at hf
  simp [hf.2, Frame.shaped, Frame.zero]

/-- The frame at the front has the storage shape of a frame. -/
theorem front_shaped (p : Params) (q : Queue) (h : q.wf p) : (q.front p.maxLength).shaped p.maxLength = true := by
  obtain ⟨hl, hh, -, -, -, hs⟩ := h
  have : q.head < q.slots.length := by omega
  simp only [Queue.front, List.getD_eq_getElem?_getD, List.getElem?_eq_getElem this, Option.getD_some]
  exact hs _ (List.getElem_mem this)

theorem front_mem_contents (p : Params) (q : Queue) (h : q.wf p) (hn : q.count ≠ 0) :
    q.front p.maxLength ∈ q.contents p := List.mem_of_mem_head? (contents_front p q h hn)

/-! ### The four operations on the state -/

theorem enqueue_of_full (q : QueueSel) (f : Frame) (s : State) (h : s.qFull q = true) :
    enqueue q f s = (false, s) := by simp [enqueue, h]

theorem enqueue_of_room (q : QueueSel) (f : Frame) (s : State) (h : s.qFull q = false) :
    enqueue q f s = (true, setQueue q ((s.queue q).push s.par.capacity f) s) := by simp [enqueue, h]

theorem dequeue_of_empty (q : QueueSel) (s : State) (h : s.qEmpty q = true) : dequeue q s = (none, s) := by
  simp [dequeue, h]

theorem dequeue_of_some (q : QueueSel) (s : State) (h : s.qEmpty q = false) :
    dequeue q s = (some ((s.queue q).front s.par.maxLength), setQueue q ((s.queue q).pop s.par.capacity) s) := by
  simp [dequeue, h]

/-- What a dequeue answers is the first of the contents (R120). -/
theorem dequeue_fst (q : QueueSel) (s : State) (h : (s.queue q).wf s.par) :
    (dequeue q s).1 = (s.contents q).head? := by
  cases he : s.qEmpty q with
  | true => rw [dequeue_of_empty q s he, State.contents, contents_of_empty _ _ ((qEmpty_iff q s).1 he)]; rfl
  | false => rw [dequeue_of_some q s he, State.contents, contents_front _ _ h ((qEmpty_eq_false_iff q s).1 he)]

/-- What a dequeue leaves is the rest of the contents. -/
theorem dequeue_contents (q : QueueSel) (s : State) : (dequeue q s).2.contents q = (s.contents q).tail := by
  cases he : s.qEmpty q with
  | true => rw [dequeue_of_empty q s he, State.contents, contents_of_empty _ _ ((qEmpty_iff q s).1 he)]; rfl
  | false => rw [dequeue_of_some q s he]; simp [State.contents, contents_pop]

theorem dequeue_wf (q : QueueSel) (s : State) (h : (s.queue q).wf s.par) :
    ((dequeue q s).2.queue q).wf (dequeue q s).2.par := by
  cases he : s.qEmpty q with
  | true => rw [dequeue_of_empty q s he]; exact h
  | false =>
    rw [dequeue_of_some q s he]
    simpa using wf_pop _ _ h ((qEmpty_eq_false_iff q s).1 he)

/-- A dequeue touches one queue and nothing else. -/
theorem dequeue_frame (q : QueueSel) (s : State) : (dequeue q s).2 = setQueue q ((dequeue q s).2.queue q) s := by
  unfold dequeue
  split <;> cases q <;> simp [setQueue]

/-- An enqueue touches one queue and nothing else. -/
theorem enqueue_frame (q : QueueSel) (f : Frame) (s : State) :
    (enqueue q f s).2 = setQueue q ((enqueue q f s).2.queue q) s := by
  unfold enqueue
  split <;> cases q <;> simp [setQueue]

end Sys2Proof.Machine
end

