-- ==== Sys2Proof/Laws/Transfer.lean ====
section
/-! SUPPORT. The transfer engine: what a cycle leaves alone, whatever the replies (R170, R172), and what it computes from a
list of replies (R173). -/

namespace Sys2Proof.Machine

open Sys2Proof

/-- `t` is `s` but for the engine's registers, the request line, TRACE, and the replies consumed. -/
def OnlyCycle (s t : State) : Prop :=
  t = { s with
    te := t.te, line := { s.line with req := t.line.req }, trace := t.trace
    replies := t.replies, drawn := t.drawn }

theorem OnlyCycle.refl (s : State) : OnlyCycle s s := rfl

theorem OnlyCycle.trans {s t u : State} (h : OnlyCycle s t) (h' : OnlyCycle t u) : OnlyCycle s u := by
  unfold OnlyCycle at *
  rw [h', h]

theorem OnlyCycle.fields {s t : State} (h : OnlyCycle s t) :
    t.par = s.par ∧ t.txq = s.txq ∧ t.rxq = s.rxq ∧ t.cfg = s.cfg ∧ t.wake = s.wake ∧ t.inited = s.inited ∧
      t.halted = s.halted ∧ t.fg = s.fg ∧ t.opframe = s.opframe ∧ t.opcfg = s.opcfg ∧ t.resp = s.resp ∧
      t.port = s.port ∧ t.turns = s.turns ∧ t.result = s.result ∧ t.line.ready = s.line.ready ∧
      t.line.rst = s.line.rst := by
  rw [h]
  simp

theorem takeReply_onlyCycle (s : State) : OnlyCycle s (takeReply s) := by
  unfold OnlyCycle takeReply; split <;> rfl

theorem emit_onlyCycle (e : Event) (s : State) : OnlyCycle s (emit e s) := rfl

theorem xchg_onlyCycle (b : Byte) (s : State) : OnlyCycle s (xchg b s) :=
  (takeReply_onlyCycle s).trans (emit_onlyCycle _ _)

theorem setTe_onlyCycle (e : Engine) (s : State) : OnlyCycle s { s with te := e } := rfl

theorem tePayload_onlyCycle (k : Nat) (s : State) : OnlyCycle s (tePayload k s) :=
  (xchg_onlyCycle _ s).trans (setTe_onlyCycle _ _)

theorem tePayloads_onlyCycle (n k : Nat) (s : State) : OnlyCycle s (tePayloads n k s) := by
  induction n generalizing k s with
  | zero => exact .refl s
  | succ n ih => exact (tePayload_onlyCycle k s).trans (ih (k + 1) _)

theorem runTransfer_onlyCycle (out : Frame) (s : State) : OnlyCycle s (runTransfer out s) := by
  have h1 : OnlyCycle s (teRequest (teLatch out s)) := rfl
  have h2 : ∀ t, OnlyCycle t (teLength t) := fun t => (xchg_onlyCycle _ t).trans (setTe_onlyCycle _ _)
  have h3 : ∀ t, OnlyCycle t (teFirst t) := fun t => (xchg_onlyCycle _ t).trans (setTe_onlyCycle _ _)
  have h4 : ∀ t, OnlyCycle t (teNegotiate t) := fun _ => rfl
  have h5 : ∀ t, OnlyCycle t (teRelease t) := fun _ => rfl
  exact ((((h1.trans (h2 _)).trans (h3 _)).trans (h4 _)).trans (tePayloads_onlyCycle _ _ _)).trans (h5 _)

/-! ### One further byte pair -/

@[simp] theorem tePayload_par (k : Nat) (s : State) : (tePayload k s).par = s.par := by simp [tePayload]
@[simp] theorem tePayload_trace (k : Nat) (s : State) :
    (tePayload k s).trace = s.trace ++ [.xchg (furtherByte s.te.out k) (nextReply s)] := by simp [tePayload]
@[simp] theorem tePayload_replies (k : Nat) (s : State) : (tePayload k s).replies = s.replies.tail := by
  simp [tePayload]
@[simp] theorem tePayload_line (k : Nat) (s : State) : (tePayload k s).line = s.line := by simp [tePayload]
@[simp] theorem tePayload_te (k : Nat) (s : State) :
    (tePayload k s).te = { s.te with k := k, rx := setPayloadByte s.te.rx k (nextReply s) } := by
  simp [tePayload]

/-! ### All further byte pairs, whatever the replies -/

@[simp] theorem tePayloads_line (n k : Nat) (s : State) : (tePayloads n k s).line = s.line := by
  induction n generalizing k s with
  | zero => rfl
  | succ n ih => simp [tePayloads, ih]

theorem tePayloads_te_frame (n k : Nat) (s : State) :
    (tePayloads n k s).te.phase = s.te.phase ∧ (tePayloads n k s).te.out = s.te.out ∧
      (tePayloads n k s).te.d = s.te.d ∧ (tePayloads n k s).te.m = s.te.m ∧
      (tePayloads n k s).te.rx.length = s.te.rx.length ∧ (tePayloads n k s).te.rx.status = s.te.rx.status ∧
      (tePayloads n k s).te.rx.payload.length = s.te.rx.payload.length := by
  induction n generalizing k s with
  | zero => simp [tePayloads]
  | succ n ih =>
    obtain ⟨h1, h2, h3, h4, h5, h6, h7⟩ := ih (k + 1) (tePayload k s)
    simp [tePayloads, h1, h2, h3, h4, h5, h6, h7, setPayloadByte]

/-- The further byte pairs leave the payload bytes below their first index alone. -/
theorem tePayloads_below (n k j : Nat) (s : State) (h : j < k) :
    (tePayloads n k s).te.rx.payload[j]? = s.te.rx.payload[j]? := by
  induction n generalizing k s with
  | zero => rfl
  | succ n ih =>
    rw [tePayloads, ih (k + 1) _ (by omega)]
    simp [setPayloadByte, List.getElem?_set_ne (show k ≠ j by omega)]

/-- The further byte pairs append exactly that many exchanges to TRACE. -/
theorem tePayloads_trace (n k : Nat) (s : State) : ∃ replies : List Byte, replies.length = n ∧
    (tePayloads n k s).trace =
      s.trace ++ List.zipWith Event.xchg ((List.range' k n).map (furtherByte s.te.out)) replies := by
  induction n generalizing k s with
  | zero => exact ⟨[], rfl, by simp [tePayloads]⟩
  | succ n ih =>
    obtain ⟨rs, hl, ht⟩ := ih (k + 1) (tePayload k s)
    refine ⟨nextReply s :: rs, by simp [hl], ?_⟩
    simp [tePayloads, ht, List.range'_succ]

/-! ### All further byte pairs, from a list of replies -/

theorem nextReply_cons {s : State} {r : Byte} {rs : List Byte} (h : s.replies = r :: rs) : nextReply s = r := by
  simp [nextReply, h]

/-- R167: the k-th further reply is `rx.payload[k]`, and the bytes sent are those of the outgoing frame. -/
theorem tePayloads_of_replies (n k : Nat) (s : State) (hn : n ≤ s.replies.length)
    (hk : k + n ≤ s.te.rx.payload.length) :
    (tePayloads n k s).te.rx.payload =
      s.te.rx.payload.take k ++ s.replies.take n ++ s.te.rx.payload.drop (k + n) ∧
    (tePayloads n k s).replies = s.replies.drop n ∧
    (tePayloads n k s).drawn = s.drawn ∧
    (tePayloads n k s).trace = s.trace ++
      List.zipWith Event.xchg ((List.range' k n).map (furtherByte s.te.out)) (s.replies.take n) := by
  induction n generalizing k s with
  | zero => simp [tePayloads]
  | succ n ih =>
    cases hr : s.replies with
    | nil => simp [hr] at hn
    | cons r rs =>
      have hr' : (tePayload k s).replies = rs := by simp [hr]
      have hx : nextReply s = r := nextReply_cons hr
      have hd : (tePayload k s).drawn = s.drawn := by simp [tePayload, hr]
      obtain ⟨h1, h2, h3, h4⟩ := ih (k + 1) (tePayload k s)
        (by rw [hr']; simp [hr] at hn; omega) (by simp [setPayloadByte]; omega)
      rw [hr'] at h1 h2 h4
      refine ⟨?_, ?_, ?_, ?_⟩
      · rw [tePayloads, h1]
        simp only [tePayload_te, setPayloadByte, hx]
        have hlt : k < s.te.rx.payload.length := by omega
        have ht : (s.te.rx.payload.set k r).take (k + 1) = s.te.rx.payload.take k ++ [r] := by
          rw [List.take_succ_eq_append_getElem (by simpa using hlt)]
          simp [List.take_set_of_le]
        rw [ht, List.drop_set_of_lt (by omega)]
        simp [Nat.add_assoc, Nat.add_comm 1 n]
      · rw [tePayloads, h2]; simp
      · rw [tePayloads, h3, hd]
      · rw [tePayloads, h4]
        simp [hx, List.range'_succ]

/-! ### The cycle around them -/

/-- The state after position 1 and the negotiation, before the further byte pairs. -/
def beforePayload (out : Frame) (s : State) : State :=
  teNegotiate (teFirst (teLength (teRequest (teLatch out s))))

theorem runTransfer_eq (out : Frame) (s : State) :
    runTransfer out s = teRelease (tePayloads (beforePayload out s).te.m 1 (beforePayload out s)) := rfl

/-- The second reply of a cycle, D (R164). -/
def declared (s : State) : Byte := nextReply (takeReply s)

@[simp] theorem nextReply_congr (s : State) (e : Engine) (l : Lines) (tr : List Event) :
    nextReply { s with te := e, line := l, trace := tr } = nextReply s := rfl

@[simp] theorem takeReply_congr (s : State) (e : Engine) (l : Lines) (tr : List Event) :
    takeReply { s with te := e, line := l, trace := tr } =
      { takeReply s with te := e, line := l, trace := tr } := by
  unfold takeReply
  cases h : s.replies <;> simp

/-- Everything the first two positions and the negotiation set (R163 to R166, R169). -/
theorem beforePayload_eq (out : Frame) (s : State) :
    beforePayload out s =
      { takeReply (takeReply s) with
        line := { s.line with req := true }
        trace := s.trace ++ [.write .req true, .xchg out.length (nextReply s), .xchg (firstByte out) (declared s)]
        te :=
          { phase := .payload
            out := out
            rx :=
              { length := BitVec.ofNat 8 (min (declared s).toNat s.par.maxLength)
                status := nextReply s
                payload := declared s :: List.replicate s.par.maxLength 0 }
            d := declared s
            m := negotiate s.par.maxLength out.length.toNat (declared s).toNat
            k := s.te.k } } := by
  cases h0 : s.replies with
  | nil =>
    simp [beforePayload, teNegotiate, teFirst, teLength, teRequest, teLatch, xchg, emit, takeReply, nextReply,
      declared, reqAssert, h0, setPayloadByte, Frame.zero, State.outLen, List.replicate_succ]
  | cons a rs =>
    cases rs with
    | nil =>
      simp [beforePayload, teNegotiate, teFirst, teLength, teRequest, teLatch, xchg, emit, takeReply, nextReply,
        declared, reqAssert, h0, setPayloadByte, Frame.zero, State.outLen, List.replicate_succ]
    | cons b rs =>
      simp [beforePayload, teNegotiate, teFirst, teLength, teRequest, teLatch, xchg, emit, takeReply, nextReply,
        declared, reqAssert, h0, setPayloadByte, Frame.zero, State.outLen, List.replicate_succ]

/-- R165, R166: the model's negotiation is the source's closed form. -/
theorem negotiate_eq_cycleLength (maxLength L D : Nat) : negotiate maxLength L D = cycleLength maxLength L D := by
  unfold negotiate cycleLength
  split <;> exact Nat.min_comm _ _

theorem cycleLength_le (maxLength L D : Nat) : cycleLength maxLength L D ≤ maxLength := by
  unfold cycleLength
  split <;> omega

/-- After a cycle, whatever the replies: the engine is idle, the request line deasserted, and the registers hold D, m and
the received frame's length, status and raw declared length (R168, R169). -/
theorem runTransfer_registers (out : Frame) (s : State) :
    (runTransfer out s).te.phase = .idle ∧ (runTransfer out s).line.req = false ∧
    (runTransfer out s).te.out = out ∧ (runTransfer out s).te.d = declared s ∧
    (runTransfer out s).te.m = cycleLength s.par.maxLength out.length.toNat (declared s).toNat ∧
    (runTransfer out s).te.rx.length = BitVec.ofNat 8 (min (declared s).toNat s.par.maxLength) ∧
    (runTransfer out s).te.rx.status = nextReply s ∧
    (runTransfer out s).te.rx.payload[0]? = some (declared s) ∧
    (runTransfer out s).te.rx.payload.length = s.par.maxLength + 1 := by
  obtain ⟨-, h2, h3, h4, h5, h6, h7⟩ :=
    tePayloads_te_frame (beforePayload out s).te.m 1 (beforePayload out s)
  have h8 := tePayloads_below (beforePayload out s).te.m 1 0 (beforePayload out s) (by omega)
  rw [runTransfer_eq]
  refine ⟨rfl, rfl, h2.trans ?_, h3.trans ?_, h4.trans ?_, h5.trans ?_, h6.trans ?_, h8.trans ?_, h7.trans ?_⟩ <;>
    rw [beforePayload_eq] <;> simp [negotiate_eq_cycleLength]

/-- The declared length of the received frame is D (R169). -/
theorem runTransfer_declared (out : Frame) (s : State) :
    payloadByte (runTransfer out s).te.rx 0 = declared s := by
  obtain ⟨-, -, -, -, -, -, -, h, -⟩ := runTransfer_registers out s
  simp [payloadByte, List.getD_eq_getElem?_getD, h]

/-! ### What a cycle consumes and records, whatever the replies -/

theorem takeReply_consumes (s : State) :
    (takeReply s).replies = s.replies.drop 1 ∧ (takeReply s).drawn = s.drawn + (1 - s.replies.length) := by
  unfold takeReply; cases s.replies <;> simp

/-- `n` further byte pairs consume `n` replies of the list, and draw a free one for each it lacks. -/
theorem tePayloads_consumes (n k : Nat) (s : State) :
    (tePayloads n k s).replies = s.replies.drop n ∧
      (tePayloads n k s).drawn = s.drawn + (n - s.replies.length) := by
  induction n generalizing k s with
  | zero => simp [tePayloads]
  | succ n ih =>
    obtain ⟨h1, h2⟩ := ih (k + 1) (tePayload k s)
    have hr : (tePayload k s).replies = s.replies.tail := tePayload_replies k s
    have hd : (tePayload k s).drawn = s.drawn + (1 - s.replies.length) := (takeReply_consumes s).2
    rw [hr] at h1 h2
    rw [hd] at h2
    refine ⟨?_, ?_⟩
    · rw [tePayloads, h1]; simp
    · rw [tePayloads, h2]; simp; omega

/-- A cycle consumes 2 + m replies and appends to TRACE one assertion, 2 + m exchanges and one deassertion (R170). -/
theorem runTransfer_consumes (out : Frame) (s : State) :
    (runTransfer out s).replies = s.replies.drop (2 + (runTransfer out s).te.m) ∧
    (runTransfer out s).drawn = s.drawn + (2 + (runTransfer out s).te.m - s.replies.length) ∧
    ∃ pairs : List (Byte × Byte), pairs.length = 2 + (runTransfer out s).te.m ∧
      (runTransfer out s).trace =
        s.trace ++ [.write .req true] ++ pairs.map (fun p => .xchg p.1 p.2) ++ [.write .req false] := by
  have hm : (runTransfer out s).te.m = (beforePayload out s).te.m :=
    (tePayloads_te_frame (beforePayload out s).te.m 1 (beforePayload out s)).2.2.2.1
  obtain ⟨h1, h2⟩ := tePayloads_consumes (beforePayload out s).te.m 1 (beforePayload out s)
  obtain ⟨t1, t2⟩ := takeReply_consumes s
  obtain ⟨u1, u2⟩ := takeReply_consumes (takeReply s)
  have hr : (beforePayload out s).replies = s.replies.drop 2 := by
    rw [beforePayload_eq]; simp only [u1, t1, List.drop_drop]
  have hd : (beforePayload out s).drawn = s.drawn + (2 - s.replies.length) := by
    rw [beforePayload_eq]; simp only [u2, t1, t2, List.length_drop]; omega
  obtain ⟨rs, hl, ht⟩ := tePayloads_trace (beforePayload out s).te.m 1 (beforePayload out s)
  refine ⟨?_, ?_, ?_⟩
  · show (tePayloads (beforePayload out s).te.m 1 (beforePayload out s)).replies = _
    rw [h1, hr, hm, List.drop_drop]
  · show (tePayloads (beforePayload out s).te.m 1 (beforePayload out s)).drawn = _
    rw [h2, hd, hr, hm, List.length_drop]; omega
  · refine ⟨(out.length, nextReply s) :: (firstByte out, declared s) ::
      ((List.range' 1 (beforePayload out s).te.m).map (furtherByte (beforePayload out s).te.out)).zip rs, ?_, ?_⟩
    · rw [hm]; simp [hl]; omega
    · show (tePayloads (beforePayload out s).te.m 1 (beforePayload out s)).trace ++ [.write .req false] = _
      have hb : (beforePayload out s).trace = s.trace ++
          [.write .req true, .xchg out.length (nextReply s), .xchg (firstByte out) (declared s)] := by
        rw [beforePayload_eq]
      rw [ht, hb]
      simp [List.zip, List.map_zipWith]

/-- The bytes the model sends, position by position (R163, R164, R167), are those of the closed form (R173). -/
theorem cycleSent_eq (ml : Nat) (out : Frame) (D : Nat) (hs : out.shaped ml = true)
    (hl : out.length.toNat ≤ ml) :
    out.length :: firstByte out :: (List.range' 1 (cycleLength ml out.length.toNat D)).map (furtherByte out) =
      cycleSent out (cycleLength ml out.length.toNat D) := by
  have hp : out.payload.length = ml + 1 := by simpa [Frame.shaped] using hs
  unfold cycleSent
  by_cases h0 : out.length.toNat = 0
  · have h0' : out.length = 0#8 := by apply BitVec.eq_of_toNat_eq; simpa using h0
    simp only [firstByte, h0', ↓reduceIte]
    rw [Nat.add_comm 2, List.replicate_succ, List.replicate_succ]
    congr 2
    apply List.ext_getElem
    · simp
    · intro i h1 h2
      simp [furtherByte, h0]
  · have h0' : out.length ≠ 0#8 := by intro h; simp [h] at h0
    have hm : out.length.toNat - 1 ≤ cycleLength ml out.length.toNat D := by
      unfold cycleLength; rw [if_neg h0]; omega
    rw [if_neg h0]
    apply List.ext_getElem
    · simp [hp]; omega
    · intro i h1 h2
      match i with
      | 0 => simp
      | 1 =>
        rw [List.getElem_append_left (by simp [hp]; omega)]
        simp [firstByte, h0', payloadByte, List.getD_eq_getElem?_getD]
        rw [List.getElem?_eq_getElem (by omega)]; simp
      | i + 2 =>
        simp at h1
        by_cases hi : 1 + (1 + i) ≤ out.length.toNat
        · rw [List.getElem_append_left (by simp [hp]; omega)]
          simp [furtherByte, hi, payloadByte, List.getD_eq_getElem?_getD]
          rw [List.getElem?_eq_getElem (by omega)]; simp; congr 1; omega
        · rw [List.getElem_append_right (by simp [hp]; omega)]
          simp [furtherByte, hi]

/-- The events of a cycle with a frame of at most MAX_LENGTH bytes whose replies are all at hand: those of the closed form
(R170, R173). -/
theorem runTransfer_trace (out : Frame) (s : State) (status D : Byte) (more : List Byte)
    (hs : out.shaped s.par.maxLength = true) (hl : out.length.toNat ≤ s.par.maxLength)
    (hr : s.replies = status :: D :: more) (hm : cycleLength s.par.maxLength out.length.toNat D.toNat ≤ more.length) :
    (runTransfer out s).trace = s.trace ++
      cycleEvents (cycleSent out (cycleLength s.par.maxLength out.length.toNat D.toNat))
        (status :: D :: more.take (cycleLength s.par.maxLength out.length.toNat D.toNat)) := by
  have hn : nextReply s = status := nextReply_cons hr
  have ht : (takeReply s).replies = D :: more := by simp [hr]
  have hD : declared s = D := nextReply_cons ht
  have hbm : (beforePayload out s).te.m = cycleLength s.par.maxLength out.length.toNat D.toNat := by
    rw [beforePayload_eq, hD]; exact negotiate_eq_cycleLength _ _ _
  have hbr : (beforePayload out s).replies = more := by
    rw [beforePayload_eq]; show (takeReply (takeReply s)).replies = more; rw [takeReply_replies, ht]; rfl
  have hbp : (beforePayload out s).te.rx.payload.length = s.par.maxLength + 1 := by rw [beforePayload_eq]; simp
  have hle := cycleLength_le s.par.maxLength out.length.toNat D.toNat
  obtain ⟨-, -, -, h⟩ := tePayloads_of_replies (beforePayload out s).te.m 1 (beforePayload out s)
    (by rw [hbm, hbr]; exact hm) (by rw [hbm, hbp]; omega)
  show (tePayloads (beforePayload out s).te.m 1 (beforePayload out s)).trace ++ [.write .req false] = _
  rw [h, hbr, hbm, ← cycleSent_eq _ _ _ hs hl, beforePayload_eq]
  simp [cycleEvents, hn, hD]

/-! ### TXQ plays no part in a cycle (R172) -/

theorem tePayloads_setTxq (n k : Nat) (q : Queue) (s : State) :
    tePayloads n k { s with txq := q } = { tePayloads n k s with txq := q } := by
  induction n generalizing k s with
  | zero => rfl
  | succ n ih =>
    have h : tePayload k { s with txq := q } = { tePayload k s with txq := q } := by
      unfold tePayload xchg takeReply nextReply
      cases s.replies <;> rfl
    rw [tePayloads, h, ih, tePayloads]

theorem runTransfer_setTxq (out : Frame) (q : Queue) (s : State) :
    runTransfer out { s with txq := q } = { runTransfer out s with txq := q } := by
  have h : beforePayload out { s with txq := q } = { beforePayload out s with txq := q } := by
    rw [beforePayload_eq, beforePayload_eq]
    unfold takeReply declared nextReply
    cases h0 : s.replies with
    | nil => simp [takeReply, h0]
    | cons a l => cases l <;> simp [takeReply, h0]
  rw [runTransfer_eq, runTransfer_eq, h, tePayloads_setTxq]
  rfl

end Sys2Proof.Machine
end

