-- ==== Sys2Proof/Laws/Scheduler.lean ====
section
/-! SUPPORT. The scheduler step: its three cases (R182, R183, R184), and what it can change at all. -/

namespace Sys2Proof.Machine

open Sys2Proof

/-! ### Re-arm and Capacity edge -/

@[simp] theorem rearm_txq (s : State) : (rearm s).txq = s.txq := by unfold rearm; split <;> simp
@[simp] theorem rearm_rxq (s : State) : (rearm s).rxq = s.rxq := by unfold rearm; split <;> simp
@[simp] theorem rearm_par (s : State) : (rearm s).par = s.par := by unfold rearm; split <;> simp
@[simp] theorem rearm_cfg (s : State) : (rearm s).cfg = s.cfg := by unfold rearm; split <;> simp

/-- R185: what Re-arm does, as one update. -/
theorem rearm_eq (s : State) : rearm s = { s with
    line := { s.line with req := s.line.req || decide (s.rxq.count ≠ s.par.capacity ∧ s.txq.count ≠ 0) }
    trace := s.trace ++ (if s.rxq.count ≠ s.par.capacity ∧ s.txq.count ≠ 0 then [.write .req true] else []) } := by
  unfold rearm
  by_cases h : s.rxq.count ≠ s.par.capacity ∧ s.txq.count ≠ 0
  · simp [State.qFull, State.qEmpty, Queue.full, Queue.empty, h, reqAssert, emit]
  · rw [if_neg (by simpa [State.qFull, State.qEmpty, Queue.full, Queue.empty] using h), decide_eq_false h, if_neg h]
    simp

/-- R185: what Capacity edge does, as one update. -/
theorem capacityEdge_eq (s : State) : capacityEdge s = { s with
    wake := if s.cfg.irqMode = true ∧ s.rxq.count = s.par.capacity then { armed := false, pending := false } else s.wake
    trace := s.trace ++ (if s.cfg.irqMode = true ∧ s.rxq.count = s.par.capacity then [.disarm] else []) } := by
  unfold capacityEdge
  by_cases h : s.cfg.irqMode = true ∧ s.rxq.count = s.par.capacity
  · simp [State.qFull, Queue.full, h, wakeDisarm, emit]
  · rw [if_neg (by simpa [State.qFull, Queue.full] using h)]
    simp [h]

/-! ### The received frame is stored -/

/-- The state once the received frame is in RXQ, or dropped when its declared length is 0 (R184). -/
def storeReceived (s : State) : State :=
  if payloadByte s.te.rx 0 = 0x00#8 then s else { s with rxq := s.rxq.push s.par.capacity s.te.rx }

/-- R190: with room in RXQ the enqueue after the cycle succeeds. -/
theorem afterCycle_of_room (s : State) (h : s.qFull .rx = false) :
    afterCycle s = capacityEdge (rearm (storeReceived s)) := by
  unfold afterCycle storeReceived
  rw [enqueue_of_room .rx _ s h]
  by_cases h0 : payloadByte s.te.rx 0 = 0x00#8 <;> simp [h0, setQueue]

/-! ### The three cases of a scheduler step -/

theorem runSchedStep_of_full (s : State) (h : s.qFull .rx = true) : runSchedStep s = s := by simp [runSchedStep, h]

theorem runSchedStep_of_notReady (s : State) (h : s.qFull .rx = false) (hr : s.line.ready = false) :
    runSchedStep s =
      if s.qEmpty .tx then emit (.read .rdy false) s else reqAssert (emit (.read .rdy false) s) := by
  simp [runSchedStep, h, readyCheck, rdyRead, hr]

/-- The state the cycle of a scheduler step leaves: the line read, the oldest frame taken from TXQ, the cycle run with it or
with NULL_FRAME. -/
def afterTransfer (s : State) : State :=
  runTransfer ((dequeue .tx s).1.getD (Frame.zero s.par.maxLength)) (dequeue .tx (emit (.read .rdy true) s)).2

theorem dequeue_tx_emit (e : Event) (s : State) : dequeue .tx (emit e s) = ((dequeue .tx s).1, emit e (dequeue .tx s).2) := by
  unfold dequeue
  have : (emit e s).qEmpty .tx = s.qEmpty .tx := rfl
  rw [this]
  split <;> rfl

/-- What the scheduler's cycle works with and what it leaves (R184): the cycle of the oldest frame of TXQ, or NULL_FRAME, and
that frame gone from TXQ. -/
theorem afterTransfer_eq (s : State) (h : s.txq.wf s.par) :
    afterTransfer s =
      { runTransfer ((s.contents .tx).headD (Frame.zero s.par.maxLength))
          { s with trace := s.trace ++ [.read .rdy true] } with txq := (dequeue .tx s).2.txq } := by
  have h1 : (dequeue .tx s).1.getD (Frame.zero s.par.maxLength) =
      (s.contents .tx).headD (Frame.zero s.par.maxLength) := by
    rw [dequeue_fst .tx s h]; cases s.contents .tx <;> rfl
  have h2 : (dequeue .tx (emit (.read .rdy true) s)).2 =
      { s with trace := s.trace ++ [.read .rdy true], txq := (dequeue .tx s).2.txq } := by
    rw [dequeue_tx_emit, dequeue_frame .tx s]; rfl
  unfold afterTransfer
  rw [h1, h2]
  exact runTransfer_setTxq _ (dequeue .tx s).2.txq { s with trace := s.trace ++ [.read .rdy true] }

theorem afterTransfer_rxq (s : State) : (afterTransfer s).rxq = s.rxq := by
  unfold afterTransfer
  rw [(runTransfer_onlyCycle _ _).fields.2.2.1, dequeue_tx_emit]
  simp only [emit_rxq]
  rw [dequeue_frame .tx s]
  rfl

theorem afterTransfer_par (s : State) : (afterTransfer s).par = s.par := by
  unfold afterTransfer
  rw [(runTransfer_onlyCycle _ _).fields.1, dequeue_tx_emit, emit_par, dequeue_frame .tx s]
  rfl

theorem afterTransfer_txq (s : State) : (afterTransfer s).txq = (dequeue .tx s).2.txq := by
  unfold afterTransfer
  rw [(runTransfer_onlyCycle _ _).fields.2.1, dequeue_tx_emit]
  rfl

theorem afterTransfer_qFull (s : State) : (afterTransfer s).qFull .rx = s.qFull .rx := by
  simp [State.qFull, Queue.full, afterTransfer_rxq, afterTransfer_par]

/-- R184, R185: with room in RXQ and the ready line ready, the step is the cycle, the store, Re-arm and Capacity edge. -/
theorem runSchedStep_of_ready (s : State) (h : s.qFull .rx = false) (hr : s.line.ready = true) :
    runSchedStep s = capacityEdge (rearm (storeReceived (afterTransfer s))) := by
  rw [← afterCycle_of_room _ (by rw [afterTransfer_qFull]; exact h)]
  simp [runSchedStep, h, readyCheck, rdyRead, hr, transferStage, afterTransfer, dequeue_tx_emit]

/-- RXQ once the received frame of a cycle is stored, or dropped when D = 0 (R184). -/
def rxqAfter (s c : State) : Queue := if c.te.d = 0x00#8 then s.rxq else s.rxq.push s.par.capacity c.te.rx

/-- Everything a scheduler step that reaches its Transfer stage does, as one update over the state `c` the cycle alone gives
(R184, R185). -/
theorem runSchedStep_cycle (s c : State) (h : s.txq.wf s.par) (hroom : s.rxq.count ≠ s.par.capacity)
    (hr : s.line.ready = true)
    (hc : c = runTransfer ((s.contents .tx).headD (Frame.zero s.par.maxLength))
      { s with trace := s.trace ++ [.read .rdy true] }) :
    runSchedStep s = { s with
      txq := (dequeue .tx s).2.txq, rxq := rxqAfter s c, te := c.te, replies := c.replies, drawn := c.drawn
      line := { s.line with
        req := decide ((rxqAfter s c).count ≠ s.par.capacity ∧ (dequeue .tx s).2.txq.count ≠ 0) }
      wake := if s.cfg.irqMode = true ∧ (rxqAfter s c).count = s.par.capacity then
        { armed := false, pending := false } else s.wake
      trace := c.trace ++
        (if (rxqAfter s c).count ≠ s.par.capacity ∧ (dequeue .tx s).2.txq.count ≠ 0 then [.write .req true] else []) ++
        (if s.cfg.irqMode = true ∧ (rxqAfter s c).count = s.par.capacity then [.disarm] else []) } := by
  have e := runSchedStep_of_ready s ((qFull_eq_false_iff .rx s).2 hroom) hr
  have ho := runTransfer_onlyCycle ((s.contents .tx).headD (Frame.zero s.par.maxLength))
    { s with trace := s.trace ++ [.read .rdy true] }
  have hd : payloadByte c.te.rx 0 = c.te.d := by
    rw [hc, runTransfer_declared, (runTransfer_registers _ _).2.2.2.1]
  have hreq : c.line.req = false := by rw [hc]; exact (runTransfer_registers _ _).2.1
  rw [e, afterTransfer_eq s h, ← hc, rearm_eq, capacityEdge_eq]
  rw [← hc] at ho
  unfold OnlyCycle at ho
  unfold storeReceived rxqAfter
  simp only [hd]
  by_cases h0 : c.te.d = 0#8
  · simp only [h0, if_true]
    rw [ho]
    simp [hreq]
  · simp only [h0, if_false]
    rw [ho]
    simp [hreq]

/-- R242: a scheduler step only appends to TRACE, and no response. -/
theorem runSchedStep_events (s : State) :
    ∃ es : List Event, (runSchedStep s).trace = s.trace ++ es ∧ ∀ e ∈ es, e.isResp = false := by
  cases h : s.qFull .rx with
  | true => exact ⟨[], by rw [runSchedStep_of_full s h]; simp, by simp⟩
  | false =>
    cases hr : s.line.ready with
    | false =>
      rw [runSchedStep_of_notReady s h hr]
      split
      · exact ⟨[.read .rdy false], rfl, by simp [Event.isResp]⟩
      · exact ⟨[.read .rdy false, .write .req true], by simp, by simp [Event.isResp]⟩
    | true =>
      have h1 : ∃ es : List Event, (afterTransfer s).trace = s.trace ++ es ∧ ∀ e ∈ es, e.isResp = false := by
        unfold afterTransfer
        obtain ⟨-, -, pairs, -, ht⟩ := runTransfer_consumes
          ((dequeue .tx s).1.getD (Frame.zero s.par.maxLength)) (dequeue .tx (emit (.read .rdy true) s)).2
        have h2 : (dequeue .tx (emit (.read .rdy true) s)).2.trace = s.trace ++ [.read .rdy true] := by
          rw [dequeue_tx_emit, emit_trace, dequeue_frame .tx s]; rfl
        rw [ht, h2]
        refine ⟨[.read .rdy true] ++ [.write .req true] ++ pairs.map (fun p => .xchg p.1 p.2) ++ [.write .req false],
          by simp, ?_⟩
        intro e he
        simp only [List.mem_append, List.mem_singleton, List.mem_map] at he
        rcases he with ((rfl | rfl) | ⟨p, -, rfl⟩) | rfl <;> rfl
      obtain ⟨es, ht, hes⟩ := h1
      have h3 : (storeReceived (afterTransfer s)).trace = s.trace ++ es := by
        unfold storeReceived; split <;> exact ht
      rw [runSchedStep_of_ready s h hr, capacityEdge_eq, rearm_eq]
      simp only [h3]
      rw [List.append_assoc, List.append_assoc]
      refine ⟨_, rfl, ?_⟩
      intro e he
      simp only [List.mem_append] at he
      rcases he with he | he | he
      · exact hes e he
      · split at he
        · simp only [List.mem_singleton] at he; subst he; rfl
        · cases he
      · split at he
        · simp only [List.mem_singleton] at he; subst he; rfl
        · cases he

/-- R181: a scheduler step changes nothing but the queues, the engine's registers, the request line, the wake mechanism,
TRACE and the replies consumed; in particular it never halts (R190). -/
def OnlySched (s t : State) : Prop :=
  t = { s with
    txq := t.txq, rxq := t.rxq, te := t.te, line := { s.line with req := t.line.req }, wake := t.wake
    trace := t.trace, replies := t.replies, drawn := t.drawn }

theorem OnlySched.trans {s t u : State} (h : OnlySched s t) (h' : OnlySched t u) : OnlySched s u := by
  unfold OnlySched at *
  rw [h', h]

theorem OnlyCycle.onlySched {s t : State} (h : OnlyCycle s t) : OnlySched s t := by
  unfold OnlySched
  rw [h]

theorem runSchedStep_onlySched (s : State) : OnlySched s (runSchedStep s) := by
  cases h : s.qFull .rx with
  | true => rw [runSchedStep_of_full s h]; rfl
  | false =>
    cases hr : s.line.ready with
    | false =>
      rw [runSchedStep_of_notReady s h hr]
      split <;> rfl
    | true =>
      rw [runSchedStep_of_ready s h hr]
      have h1 : OnlySched s (dequeue .tx (emit (.read .rdy true) s)).2 := by
        unfold dequeue
        split <;> rfl
      have h2 : OnlySched s (afterTransfer s) := h1.trans (runTransfer_onlyCycle _ _).onlySched
      have h3 : ∀ t, OnlySched t (storeReceived t) := fun t => by unfold storeReceived; split <;> rfl
      have h4 : ∀ t, OnlySched t (rearm t) := fun t => by unfold rearm; split <;> rfl
      have h5 : ∀ t, OnlySched t (capacityEdge t) := fun t => by unfold capacityEdge; split <;> rfl
      exact ((h2.trans (h3 _)).trans (h4 _)).trans (h5 _)

theorem OnlySched.fields {s t : State} (h : OnlySched s t) :
    t.par = s.par ∧ t.cfg = s.cfg ∧ t.inited = s.inited ∧ t.halted = s.halted ∧ t.fg = s.fg ∧
      t.opframe = s.opframe ∧ t.opcfg = s.opcfg ∧ t.resp = s.resp ∧ t.port = s.port ∧ t.turns = s.turns ∧
      t.result = s.result ∧ t.line.ready = s.line.ready ∧ t.line.rst = s.line.rst := by
  rw [h]
  simp

@[simp] theorem runSchedStep_par (s : State) : (runSchedStep s).par = s.par := (runSchedStep_onlySched s).fields.1
@[simp] theorem runSchedStep_cfg (s : State) : (runSchedStep s).cfg = s.cfg := (runSchedStep_onlySched s).fields.2.1
@[simp] theorem runSchedStep_inited (s : State) : (runSchedStep s).inited = s.inited :=
  (runSchedStep_onlySched s).fields.2.2.1
@[simp] theorem runSchedStep_halted (s : State) : (runSchedStep s).halted = s.halted :=
  (runSchedStep_onlySched s).fields.2.2.2.1
@[simp] theorem runSchedStep_fg (s : State) : (runSchedStep s).fg = s.fg := (runSchedStep_onlySched s).fields.2.2.2.2.1
@[simp] theorem runSchedStep_opframe (s : State) : (runSchedStep s).opframe = s.opframe :=
  (runSchedStep_onlySched s).fields.2.2.2.2.2.1
@[simp] theorem runSchedStep_opcfg (s : State) : (runSchedStep s).opcfg = s.opcfg :=
  (runSchedStep_onlySched s).fields.2.2.2.2.2.2.1
@[simp] theorem runSchedStep_resp (s : State) : (runSchedStep s).resp = s.resp :=
  (runSchedStep_onlySched s).fields.2.2.2.2.2.2.2.1
@[simp] theorem runSchedStep_port (s : State) : (runSchedStep s).port = s.port :=
  (runSchedStep_onlySched s).fields.2.2.2.2.2.2.2.2.1
@[simp] theorem runSchedStep_turns (s : State) : (runSchedStep s).turns = s.turns :=
  (runSchedStep_onlySched s).fields.2.2.2.2.2.2.2.2.2.1
@[simp] theorem runSchedStep_result (s : State) : (runSchedStep s).result = s.result :=
  (runSchedStep_onlySched s).fields.2.2.2.2.2.2.2.2.2.2.1
@[simp] theorem runSchedStep_ready (s : State) : (runSchedStep s).line.ready = s.line.ready :=
  (runSchedStep_onlySched s).fields.2.2.2.2.2.2.2.2.2.2.2.1

end Sys2Proof.Machine
end

