-- ==== Sys2Proof/Laws/Application.lean ====
section
/-! SUPPORT. The command port: when a command is accepted (R200, R201), and the forms of the commands' micro-steps. -/

namespace Sys2Proof.Machine

open Sys2Proof

/-! ### Direct calls -/

/-- An internal operation called in a block that is not halted runs (R105, R236). -/
theorem direct_runs (op : State → CallResult × State) (s : State) (h : s.halted = false) :
    direct op s = .next { (op s).2 with result := (op s).1 } := by simp [direct, h]

/-! ### The prologue -/

theorem accept_halted (op : Byte) (body : State → State) (s : State) (h : s.halted = true) :
    accept op body s = .fault .halted := by simp [accept, h]

theorem accept_inFlight (op : Byte) (body : State → State) (s : State) (h : s.halted = false)
    (hp : s.fg.phase ≠ .idle) : accept op body s = .fault .commandInFlight := by simp [accept, h, hp]

theorem accept_notInit (op : Byte) (body : State → State) (s : State) (h : s.accepting) (hop : op ≠ 0x00#8)
    (hi : s.inited = false) : accept op body s = .next (reject op .errNotInit s) := by
  simp [accept, h.1, h.2, hop, hi]

theorem accept_alreadyInit (body : State → State) (s : State) (h : s.accepting) (hi : s.inited = true) :
    accept 0x00#8 body s = .next (reject 0x00#8 .errAlreadyInit s) := by
  simp [accept, h.1, h.2, hi]

theorem accept_runs (op : Byte) (body : State → State) (s : State) (h : s.accepting)
    (hi : op ≠ 0x00#8 ↔ s.inited = true) : accept op body s = .next (body s) := by
  unfold accept
  rw [if_neg (by simp [h.1]), if_neg (by simp [h.2])]
  by_cases hop : op = 0x00#8
  · have : s.inited = false := by simpa [hop] using hi
    simp [hop, this]
  · have : s.inited = true := hi.1 hop
    simp [hop, this]

/-- Everything the prologue can answer: one of its two refusals, a refusal by the prologue's code, or the body. -/
theorem accept_next {op : Byte} {body : State → State} {s t : State} (h : accept op body s = .next t) :
    s.halted = false ∧ s.fg.phase = .idle ∧
      (t = reject op .errNotInit s ∧ s.inited = false ∨ t = reject op .errAlreadyInit s ∧ s.inited = true ∨
        t = body s ∧ (op ≠ 0x00#8 ↔ s.inited = true)) := by
  cases hh : s.halted with
  | true => simp [accept, hh] at h
  | false =>
    by_cases hp : s.fg.phase = .idle
    · cases hi : s.inited with
      | true =>
        by_cases hop : op = 0x00#8
        · subst hop
          rw [accept_alreadyInit _ _ ⟨hh, hp⟩ hi] at h
          cases h
          simp [hp]
        · rw [accept_runs _ _ _ ⟨hh, hp⟩ (by simp [hop, hi])] at h
          cases h
          simp [hp, hop]
      | false =>
        by_cases hop : op = 0x00#8
        · rw [accept_runs _ _ _ ⟨hh, hp⟩ (by simp [hop, hi])] at h
          cases h
          simp [hp, hop]
        · rw [accept_notInit _ _ _ ⟨hh, hp⟩ hop hi] at h
          cases h
          simp [hp]
    · simp [accept, hh, hp] at h

/-- A response, written out, is the model's `respond`. -/
theorem respond_eq_responded (op : Byte) (code : Code) (flag : Bool) (frame : Option Frame) (s : State) :
    respond op code flag frame s = responded op code flag frame s := rfl

theorem reject_eq_responded (op : Byte) (code : Code) (s : State) :
    reject op code s = responded op code false none s := rfl

/-! ### The validity of a configuration record -/

/-- R203, the three conditions written out. -/
theorem validConfig_iff (p : Params) (c : ConfigRecord) :
    validConfig p c = true ↔ c.variant.toNat ≤ 1 ∧ c.flags.toNat < 4 ∧ c.pins ∉ p.rejectedPins := by
  simp only [validConfig, Bool.and_eq_true, decide_eq_true_eq, beq_iff_eq, ConfigRecord.reservedFlags,
    Params.pinAssignmentValid, Bool.not_eq_true', and_assoc]
  simp only [Nat.div_eq_zero_iff, List.contains_eq_mem, decide_eq_false_iff_not]
  constructor
  · rintro ⟨h1, h2, h3⟩
    exact ⟨h1, by omega, h3⟩
  · rintro ⟨h1, h2, h3⟩
    exact ⟨h1, by omega, h3⟩

/-- Every total Boolean function of the six pin fields is the PinAssignmentValid of some build (R8, R203; log entry 2). -/
theorem pinAssignmentValid_complete (valid : Pins → Bool) :
    ∃ rejected : List Pins, ∀ (p : Params) (c : Pins),
      Params.pinAssignmentValid { p with rejectedPins := rejected } c = valid c := by
  have hfin : Finite Pins := by
    let f : Pins → (BitVec 8 × BitVec 8 × BitVec 8) × (BitVec 8 × BitVec 8 × BitVec 8) :=
      fun c => ((c.req, c.rdy, c.rst), (c.clk, c.din, c.dout))
    have hb : Finite (BitVec 8) := Finite.of_injective BitVec.toFin (fun a b h => by cases a; cases b; simpa using h)
    refine Finite.of_injective f ?_
    rintro ⟨⟩ ⟨⟩ h
    simp [f] at h
    simp_all
  have hs : {c | valid c = false}.Finite := Set.toFinite _
  refine ⟨hs.toFinset.toList, fun p c => ?_⟩
  simp [Params.pinAssignmentValid]

/-! ### Micro-steps -/

/-- The body of SEND's second micro-step as one update (R204). -/
theorem sendRequest_eq (s : State) :
    (if s.par.sendAssertsReq && !s.qFull .rx then reqAssert s else s) =
      if s.par.sendAssertsReq = true ∧ s.rxq.count ≠ s.par.capacity then
        { s with line := { s.line with req := true }, trace := s.trace ++ [.write .req true] } else s := by
  by_cases h : s.par.sendAssertsReq = true ∧ s.rxq.count ≠ s.par.capacity
  · simp [State.qFull, Queue.full, h, reqAssert, emit]
  · rw [if_neg h, if_neg (by simpa [State.qFull, Queue.full] using h)]

/-- The second half of the Capacity edge as one update (R205). -/
theorem reopen_eq (s : State) : reopen s = { s with
    wake := { armed := true, pending := s.wake.pending || (s.par.armSamplesLevel && s.line.ready) }
    line := { s.line with req := if s.txq.count = 0 then s.line.req else true }
    trace := s.trace ++ [.arm .falling] ++ (if s.txq.count = 0 then [] else [.write .req true]) } := by
  unfold reopen
  by_cases h : s.txq.count = 0
  · simp [State.qEmpty, Queue.empty, h, wakeArm, emit]
  · simp [State.qEmpty, Queue.empty, h, wakeArm, reqAssert, emit]

end Sys2Proof.Machine
end

