-- ==== Sys2Proof/Laws/Decode.lean ====
section
/-! SUPPORT. Operands and codes: each operand form read back from its bytes, and which codes are commands. -/

namespace Sys2Proof

theorem decodeConfig_bytes (c : ConfigRecord) (tl : List Byte) : decodeConfig (c.bytes ++ tl) = some (c, tl) := rfl

theorem decodeConfig_eq_some {bs : List Byte} {c : ConfigRecord} {rest : List Byte}
    (h : decodeConfig bs = some (c, rest)) : c.bytes ++ rest = bs := by
  unfold decodeConfig at h
  split at h
  · cases h; rfl
  · cases h

theorem decodeFrame_bytes (maxLength : Nat) (f : Frame) (tl : List Byte) (h : f.shaped maxLength = true) :
    decodeFrame maxLength (f.bytes ++ tl) = some (f, tl) := by
  have hl : f.payload.length = maxLength + 1 := by simpa [Frame.shaped] using h
  have h1 : (f.payload ++ tl).take (maxLength + 1) = f.payload := by rw [← hl, List.take_left]
  have h2 : (f.payload ++ tl).drop (maxLength + 1) = tl := by rw [← hl, List.drop_left]
  simp [decodeFrame, Frame.bytes, hl, h1, h2]

theorem decodeFrame_eq_some {maxLength : Nat} {bs : List Byte} {f : Frame} {rest : List Byte}
    (h : decodeFrame maxLength bs = some (f, rest)) : f.shaped maxLength = true ∧ f.bytes ++ rest = bs := by
  unfold decodeFrame at h
  split at h
  · split at h
    · cases h
      simp [Frame.shaped, Frame.bytes]
      omega
    · cases h
  · cases h

/-- A code of unit `u` and function `f` is the byte 16 u + f (R94). -/
theorem eq_of_unit_function {op : Byte} {u f : Nat} (hu : opUnit op = u) (hf : opFunction op = f) :
    op = BitVec.ofNat 8 (16 * u + f) := by
  apply BitVec.eq_of_toNat_eq
  have := op.isLt
  simp only [opUnit, opFunction] at hu hf
  simp only [BitVec.toNat_ofNat]
  omega

/-- The application commands are the codes 0x00 to 0x09 (R100, R102). -/
theorem code_le_nine_iff (i : Instr) : i.code.toNat ≤ 0x09 ↔ i.isCommand = true := by
  cases i <;> first | decide | (rename_i q; cases q <;> decide) | simp [Instr.code, Instr.isCommand]

end Sys2Proof
end

