-- ==== Sys2Proof/Laws/PerInstr.lean ====
section
/-! SUPPORT. One lemma per operation: the bytes of an operation start with its code, the code is that of the table (R100), it
is at the port exactly when it is at most 0x09 (R102), and it has as many operand bytes as R96 says. -/

namespace Sys2Proof.Laws.Code

/-- What is said of every operation, with its operands at every value. -/
def Statement (i : Instr) : Prop :=
  (encode i).head? = some i.code ∧
    (i.isCommand = true ↔ i.code.toNat ≤ 0x09) ∧
    (i.isEvent = true ↔ opUnit i.code = 4) ∧
    ∀ maxLength, i.wellFormed maxLength = true → (encode i).length = 1 + operandLength maxLength i.code

/-- The whole statement for an operation that is the one byte `op`. -/
theorem of_single {i : Instr} (hb : encode i = [i.code])
    (hc : (i.isCommand = true ↔ i.code.toNat ≤ 0x09) ∧ (i.isEvent = true ↔ opUnit i.code = 4))
    (h0 : i.code ≠ 0x00#8) (h1 : i.code ≠ 0x01#8) : Statement i :=
  ⟨by rw [hb]; rfl, hc.1, hc.2, fun _ _ => by rw [hb, operandLength, if_neg h0, if_neg h1]; rfl⟩

theorem init (c : ConfigRecord) : Statement (.init c) :=
  ⟨rfl, by simp [Instr.isCommand, Instr.code], by simp [Instr.isEvent, Instr.code, opUnit], fun _ _ => rfl⟩

theorem send (f : Frame) : Statement (.send f) :=
  ⟨rfl, by simp [Instr.isCommand, Instr.code], by simp [Instr.isEvent, Instr.code, opUnit], fun m h => by
    have hl : f.payload.length = m + 1 := by simpa [Instr.wellFormed, Frame.shaped] using h
    simp [encode, Instr.code, Instr.operandBytes, Frame.bytes, operandLength, hl]
    omega⟩

theorem tryReceive : Statement .tryReceive := of_single rfl (by decide) (by decide) (by decide)
theorem peekReceive : Statement .peekReceive := of_single rfl (by decide) (by decide) (by decide)
theorem rxqFull : Statement .rxqFull := of_single rfl (by decide) (by decide) (by decide)
theorem rxqEmpty : Statement .rxqEmpty := of_single rfl (by decide) (by decide) (by decide)
theorem txqFull : Statement .txqFull := of_single rfl (by decide) (by decide) (by decide)
theorem txqEmpty : Statement .txqEmpty := of_single rfl (by decide) (by decide) (by decide)
theorem flush : Statement .flush := of_single rfl (by decide) (by decide) (by decide)
theorem pinReset : Statement .pinReset := of_single rfl (by decide) (by decide) (by decide)
theorem qInit (q : QueueSel) : Statement (.qInit q) := by cases q <;> exact of_single rfl (by decide) (by decide) (by decide)
theorem qEnq (q : QueueSel) : Statement (.qEnq q) := by cases q <;> exact of_single rfl (by decide) (by decide) (by decide)
theorem qDeq (q : QueueSel) : Statement (.qDeq q) := by cases q <;> exact of_single rfl (by decide) (by decide) (by decide)
theorem qPeek (q : QueueSel) : Statement (.qPeek q) := by cases q <;> exact of_single rfl (by decide) (by decide) (by decide)
theorem qFull (q : QueueSel) : Statement (.qFull q) := by cases q <;> exact of_single rfl (by decide) (by decide) (by decide)
theorem qEmpty (q : QueueSel) : Statement (.qEmpty q) := by
  cases q <;> exact of_single rfl (by decide) (by decide) (by decide)
theorem reqAssert : Statement .reqAssert := of_single rfl (by decide) (by decide) (by decide)
theorem reqDeassert : Statement .reqDeassert := of_single rfl (by decide) (by decide) (by decide)
theorem rdyRead : Statement .rdyRead := of_single rfl (by decide) (by decide) (by decide)
theorem wakeArm : Statement .wakeArm := of_single rfl (by decide) (by decide) (by decide)
theorem wakeDisarm : Statement .wakeDisarm := of_single rfl (by decide) (by decide) (by decide)
theorem resetPulse : Statement .resetPulse := of_single rfl (by decide) (by decide) (by decide)
theorem transfer : Statement .transfer := of_single rfl (by decide) (by decide) (by decide)
theorem schedStep : Statement .schedStep := of_single rfl (by decide) (by decide) (by decide)
theorem rdyFall : Statement .rdyFall := of_single rfl (by decide) (by decide) (by decide)
theorem rdyRise : Statement .rdyRise := of_single rfl (by decide) (by decide) (by decide)
theorem isrService : Statement .isrService := of_single rfl (by decide) (by decide) (by decide)

end Sys2Proof.Laws.Code
end

