-- ==== Sys2Proof/Laws/Quiet.lean ====
section
/-! SUPPORT. What leaves the bus untouched: the named operations, the commands in interrupt-driven mode and the foreground's
later micro-steps (R191, R200). -/

namespace Sys2Proof.Machine

open Sys2Proof

/-- The bus is untouched from `s` to `t`: no exchange (the engine's registers and the replies are kept) and no sample of the
ready line. -/
def Quiet (s t : State) : Prop :=
  t.te = s.te ∧ t.replies = s.replies ∧ t.drawn = s.drawn ∧
    ∃ es : List Event, t.trace = s.trace ++ es ∧ ∀ e ∈ es, e.isRead = false

theorem Quiet.of_eq {s t : State} (h1 : t.te = s.te) (h2 : t.replies = s.replies) (h3 : t.drawn = s.drawn)
    (h4 : t.trace = s.trace) : Quiet s t := ⟨h1, h2, h3, [], by simp [h4], by simp⟩

theorem Quiet.trans {s t u : State} (h : Quiet s t) (h' : Quiet t u) : Quiet s u := by
  obtain ⟨a1, a2, a3, es, a4, a5⟩ := h
  obtain ⟨b1, b2, b3, fs, b4, b5⟩ := h'
  refine ⟨b1.trans a1, b2.trans a2, b3.trans a3, es ++ fs, by simp [b4, a4], fun e he => ?_⟩
  rcases List.mem_append.1 he with h | h
  · exact a5 e h
  · exact b5 e h

theorem emit_quiet (e : Event) (s : State) (h : e.isRead = false) : Quiet s (emit e s) :=
  ⟨rfl, rfl, rfl, [e], rfl, by simp [h]⟩

theorem respondWith_quiet (op : Byte) (r : Response) (s : State) : Quiet s (respondWith op r s) :=
  ⟨rfl, rfl, rfl, [.resp op r], rfl, by simp [Event.isRead]⟩

theorem reqAssert_quiet (s : State) : Quiet s (reqAssert s) :=
  ⟨rfl, rfl, rfl, [.write .req true], by simp, by simp [Event.isRead]⟩

theorem wakeArm_quiet (s : State) : Quiet s (wakeArm s) :=
  ⟨rfl, rfl, rfl, [.arm .falling], by simp, by simp [Event.isRead]⟩

theorem resetPulse_quiet (s : State) : Quiet s (resetPulse s) := by
  unfold resetPulse
  split
  · exact ⟨rfl, rfl, rfl, [.write .rst true, .write .rst false, .write .rst true], by simp [emit], by simp [Event.isRead]⟩
  · exact ⟨rfl, rfl, rfl, [.write .rst true, .delay s.par.tResetLong, .write .rst false], by simp [emit],
      by simp [Event.isRead]⟩

theorem enqueue_quiet (q : QueueSel) (f : Frame) (s : State) : Quiet s (enqueue q f s).2 := by
  rw [enqueue_frame]
  cases q <;> exact .of_eq rfl rfl rfl rfl

theorem dequeue_quiet (q : QueueSel) (s : State) : Quiet s (dequeue q s).2 := by
  rw [dequeue_frame]
  cases q <;> exact .of_eq rfl rfl rfl rfl

theorem armIfIrq_quiet (s : State) : Quiet s (armIfIrq s) := by
  unfold armIfIrq
  split
  · exact wakeArm_quiet s
  · exact .of_eq rfl rfl rfl rfl

theorem initBody_quiet (s : State) : Quiet s (initBody s) := by
  unfold initBody
  split
  · have h1 : Quiet s (initStore s) := ⟨rfl, rfl, rfl, [.busConfig s.opcfg.clkDiv], rfl, by simp [Event.isRead]⟩
    have h2 : ∀ t, Quiet t (setDirections t) := fun t =>
      ⟨rfl, rfl, rfl, [.dir .req .output, .dir .rdy .input, .dir .rst .output], by simp [setDirections],
        by simp [Event.isRead]⟩
    have h3 : ∀ t, Quiet t (emit (.delay s.par.tInitSettle) (reqDeassert t)) := fun t =>
      ⟨rfl, rfl, rfl, [.write .req false, .delay s.par.tInitSettle], by simp, by simp [Event.isRead]⟩
    have h4 : Quiet (initStore s) (initLines (initStore s)) := ((h2 _).trans (resetPulse_quiet _)).trans (h3 _)
    exact ((h1.trans h4).trans (armIfIrq_quiet _)).trans ((Quiet.of_eq rfl rfl rfl rfl).trans (respondWith_quiet _ _ _))
  · exact respondWith_quiet _ _ _

theorem sendStep1_quiet (s : State) : Quiet s (sendStep1 s) := by
  unfold sendStep1
  split
  · exact respondWith_quiet _ _ _
  · split
    · exact (enqueue_quiet .tx s.opframe s).trans (.of_eq rfl rfl rfl rfl)
    · exact respondWith_quiet _ _ _

theorem flushBody_quiet (s : State) : Quiet s (flushBody s) := by
  have h1 : Quiet s (disarmIfIrq s) := by
    unfold disarmIfIrq
    split
    · exact ⟨rfl, rfl, rfl, [.disarm], by simp, by simp [Event.isRead]⟩
    · exact .of_eq rfl rfl rfl rfl
  have h2 : ∀ t, Quiet t (initQueue .rx (initQueue .tx t)) := fun t => .of_eq rfl rfl rfl rfl
  exact ((h1.trans (h2 _)).trans (armIfIrq_quiet _)).trans (respondWith_quiet _ _ _)

theorem fgMicroStep_quiet (s : State) : Quiet s (fgMicroStep s) := by
  unfold fgMicroStep
  split
  · exact .of_eq rfl rfl rfl rfl
  · unfold sendStep2
    split
    · exact (reqAssert_quiet s).trans (respondWith_quiet _ _ _)
    · exact respondWith_quiet _ _ _
  · unfold tryRxStep2
    have h := dequeue_quiet .rx s
    have h' : Quiet s { (dequeue .rx s).2 with fg := { s.fg with wasFull := s.qFull .rx } } :=
      h.trans (.of_eq rfl rfl rfl rfl)
    split
    · exact h'.trans (respondWith_quiet _ _ _)
    · exact h'.trans (.of_eq rfl rfl rfl rfl)
  · unfold tryRxStep3
    split
    · unfold reopen
      split
      · exact (wakeArm_quiet s).trans (respondWith_quiet _ _ _)
      · exact ((wakeArm_quiet s).trans (reqAssert_quiet _)).trans (respondWith_quiet _ _ _)
    · exact respondWith_quiet _ _ _

/-- R191: a command accepted in interrupt-driven mode leaves the bus untouched. -/
theorem exec_command_quiet {i : Instr} {s t : State} (hi : i.isCommand = true) (hq : s.cfg.irqMode = true)
    (h : exec i s = .next t) : Quiet s t := by
  have ha : ∀ op (body : State → State) (u : State), accept op body u = .next t → Quiet s u → Quiet u (body u) →
      Quiet s t := fun op body u hn h1 h2 => by
    rcases (accept_next hn).2.2 with ⟨rfl, -⟩ | ⟨rfl, -⟩ | ⟨rfl, -⟩
    · exact h1.trans (respondWith_quiet _ _ _)
    · exact h1.trans (respondWith_quiet _ _ _)
    · exact h1.trans h2
  have hs : Quiet s s := .of_eq rfl rfl rfl rfl
  cases i with
  | init c => exact ha _ _ _ h (.of_eq rfl rfl rfl rfl) (initBody_quiet _)
  | send f => exact ha _ _ _ h (.of_eq rfl rfl rfl rfl) (sendStep1_quiet _)
  | tryReceive =>
    refine ha _ _ _ h hs ?_
    unfold tryRxStep1
    rw [if_pos hq]
    dsimp only
    split <;> exact .of_eq rfl rfl rfl rfl
  | peekReceive =>
    refine ha _ _ _ h hs ?_
    unfold peekBody
    split <;> exact respondWith_quiet _ _ _
  | flush => exact ha _ _ _ h hs (flushBody_quiet _)
  | pinReset =>
    simp only [exec, execPinReset] at h
    exact ha _ _ _ h hs ((resetPulse_quiet s).trans (respondWith_quiet _ _ _))
  | rxqFull | rxqEmpty | txqFull | txqEmpty => exact ha _ _ _ h hs (respondWith_quiet _ _ _)
  | _ => cases hi

end Sys2Proof.Machine
end

