-- ==== Sys2Proof/Laws/Step.lean ====
section
/-! SUPPORT. Which step comes next, and everything a step that answers a next state can have been. -/

namespace Sys2Proof.Machine

open Sys2Proof

/-- On the foreground's turn the next step is the foreground's. -/
theorem nextMove_of_fgTurn {s : State} (ht : s.fgTurn) : nextMove s = fgMove { s with turns := s.turns.tail } := by
  unfold nextMove
  cases h : s.turns with
  | nil => simp; rw [← h]
  | cons a l => simp [State.fgTurn, h] at ht; subst ht; rfl

/-- It is either the foreground's turn or an operation's. -/
theorem turn_cases (s : State) : s.fgTurn ∨ ∃ code ts, s.turns = .op code :: ts := by
  cases h : s.turns with
  | nil => exact .inl (by simp [State.fgTurn, h])
  | cons a l => cases a with
    | fg => exact .inl (by simp [State.fgTurn, h])
    | op c => exact .inr ⟨c, l, rfl⟩

theorem step_of_op {s : State} {code : Byte} {ts : List Turn} (h : s.turns = .op code :: ts) :
    step s = match decode s.par.maxLength [code] with
      | .ok (i, _) => exec i { s with turns := ts }
      | .error _ => .fault .noSuchOperation := by
  simp only [step, nextMove, h, opMove]
  cases decode s.par.maxLength [code] <;> rfl

theorem step_of_halted {s : State} (ht : s.fgTurn) (hh : s.halted = true) : step s = .fault .halted := by
  simp [step, nextMove_of_fgTurn ht, fgMove, hh]

theorem step_of_inFlight {s : State} (ht : s.fgTurn) (hh : s.halted = false) (hp : s.fg.phase ≠ .idle) :
    step s = .next (fgMicroStep { s with turns := s.turns.tail }) := by
  simp [step, nextMove_of_fgTurn ht, fgMove, hh, hp]

theorem step_of_accepting {s : State} (ht : s.fgTurn) (h : s.accepting) :
    step s = match portMove { s with turns := s.turns.tail } with
      | .run i t => exec i t
      | .settled o => o := by
  have hf : fgMove { s with turns := s.turns.tail } = portMove { s with turns := s.turns.tail } := by
    unfold fgMove
    rw [if_neg (by simp [h.1]), if_pos h.2]
  unfold step
  rw [nextMove_of_fgTurn ht, hf]
  all_goals cases portMove { s with turns := s.turns.tail } <;> rfl

/-! ### The outcomes of a meaning -/

theorem accept_outcomes (op : Byte) (body : State → State) (s u : State) (hh : u.halted = s.halted) (hf : u.fg = s.fg) :
    (∃ t, accept op body u = .next t) ∨ (accept op body u = .fault .halted ∧ s.halted = true) ∨
      (accept op body u = .fault .commandInFlight ∧ s.fg.phase ≠ .idle) := by
  unfold accept
  rw [hh, hf]
  split
  · next h => exact .inr (.inl ⟨rfl, h⟩)
  · split
    · next h => exact .inr (.inr ⟨rfl, h⟩)
    · split
      · exact .inl ⟨_, rfl⟩
      · split <;> exact .inl ⟨_, rfl⟩

theorem direct_outcomes (op : State → CallResult × State) (s : State) :
    (∃ t, direct op s = .next t) ∨ (direct op s = .fault .halted ∧ s.halted = true) := by
  unfold direct
  split
  · next h => exact .inr ⟨rfl, h⟩
  · exact .inl ⟨_, rfl⟩

/-- The outcomes `o` a meaning of `i` in `s` can have: a next state, the fault of a halted block, or, for a command only, the
fault of a second command. -/
def IsOutcome (i : Instr) (s : State) (o : Outcome) : Prop :=
  (∃ t, o = .next t) ∨ (o = .fault .halted ∧ s.halted = true) ∨
    (o = .fault .commandInFlight ∧ s.fg.phase ≠ .idle ∧ i.isCommand = true)

/-- Every meaning has one of those outcomes; none refuses. -/
theorem exec_outcomes (i : Instr) (s : State) : IsOutcome i s (exec i s) := by
  have hc : ∀ op body (u : State), u.halted = s.halted → u.fg = s.fg → i.isCommand = true →
      IsOutcome i s (accept op body u) := fun op body u h1 h2 hi => by
    rcases accept_outcomes op body s u h1 h2 with h | h | h
    · exact .inl h
    · exact .inr (.inl h)
    · exact .inr (.inr ⟨h.1, h.2, hi⟩)
  have hd : ∀ op, IsOutcome i s (direct op s) := fun op => by
    rcases direct_outcomes op s with h | h
    · exact .inl h
    · exact .inr (.inl h)
  cases i with
  | init c => exact hc _ _ { s with opcfg := c } rfl rfl rfl
  | send f => exact hc _ _ { s with opframe := f } rfl rfl rfl
  | tryReceive => exact hc _ _ s rfl rfl rfl
  | peekReceive => exact hc _ _ s rfl rfl rfl
  | rxqFull => exact hc _ _ s rfl rfl rfl
  | rxqEmpty => exact hc _ _ s rfl rfl rfl
  | txqFull => exact hc _ _ s rfl rfl rfl
  | txqEmpty => exact hc _ _ s rfl rfl rfl
  | flush => exact hc _ _ s rfl rfl rfl
  | pinReset => simp only [exec, execPinReset]; exact hc _ _ s rfl rfl rfl
  | qInit q => exact hd _
  | qEnq q => simp only [exec, execQEnq]; exact hd _
  | qDeq q => simp only [exec, execQDeq]; exact hd _
  | qPeek q => exact hd _
  | qFull q => exact hd _
  | qEmpty q => exact hd _
  | reqAssert => exact hd _
  | reqDeassert => exact hd _
  | rdyRead => simp only [exec, execRdyRead]; exact hd _
  | wakeArm => exact hd _
  | wakeDisarm => exact hd _
  | resetPulse => exact hd _
  | transfer => simp only [exec, execTransfer]; exact hd _
  | schedStep => exact hd _
  | rdyFall => left; simp only [exec, execRdyFall]; split <;> exact ⟨_, rfl⟩
  | rdyRise => left; simp only [exec, execRdyRise]; split <;> exact ⟨_, rfl⟩
  | isrService =>
    simp only [exec, execIsrService]
    split
    · next h => exact .inr (.inl ⟨rfl, h⟩)
    · split <;> exact .inl ⟨_, rfl⟩

/-! ### The port -/

/-- What the foreground finds at the port. -/
theorem portMove_cases (s : State) :
    portMove s = .settled (.next s) ∨
    (∃ op tl, s.port = op :: tl ∧ 0x09 < op.toNat ∧
      portMove s = .settled (.next (reject op .errUndefOp { s with port := tl }))) ∨
    (∃ i rest op tl, s.port = op :: tl ∧ op.toNat ≤ 0x09 ∧ decode s.par.maxLength s.port = .ok (i, rest) ∧
      portMove s = .run i { s with port := rest }) := by
  unfold portMove
  split
  · exact .inl rfl
  · next op tl hp =>
    by_cases h9 : 0x09 < op.toNat
    · exact .inr (.inl ⟨op, tl, hp, h9, by rw [if_pos h9]⟩)
    · rw [if_neg h9]
      split
      · next i rest hd => exact .inr (.inr ⟨i, rest, op, tl, hp, by omega, by rw [hp]; exact hd, rfl⟩)
      · exact .inl rfl

/-- Everything a step that answers a next state can have been: the foreground waiting at the port, refusing an undefined code,
running a command, or continuing the command in flight; or an operation taken by its code. -/
theorem step_next {s t : State} (h : step s = .next t) :
    (s.fgTurn ∧ s.accepting ∧ t = { s with turns := s.turns.tail }) ∨
    (s.fgTurn ∧ s.accepting ∧ ∃ op tl, s.port = op :: tl ∧ 0x09 < op.toNat ∧
      t = reject op .errUndefOp { s with port := tl, turns := s.turns.tail }) ∨
    (s.fgTurn ∧ s.accepting ∧ ∃ i rest, decode s.par.maxLength s.port = .ok (i, rest) ∧
      exec i { s with port := rest, turns := s.turns.tail } = .next t ∧
      ∃ op tl, s.port = op :: tl ∧ op.toNat ≤ 0x09) ∨
    (s.fgTurn ∧ s.halted = false ∧ s.fg.phase ≠ .idle ∧ t = fgMicroStep { s with turns := s.turns.tail }) ∨
    (∃ code ts i rest, s.turns = .op code :: ts ∧ decode s.par.maxLength [code] = .ok (i, rest) ∧
      exec i { s with turns := ts } = .next t) := by
  rcases turn_cases s with ht | ⟨code, ts, hc⟩
  · by_cases hh : s.halted = true
    · rw [step_of_halted ht hh] at h; cases h
    · have hh : s.halted = false := by simpa using hh
      by_cases hp : s.fg.phase = .idle
      · rw [step_of_accepting ht ⟨hh, hp⟩] at h
        rcases portMove_cases { s with turns := s.turns.tail } with
          hm | ⟨op, tl, hpo, h9, hm⟩ | ⟨i, rest, op, tl, hpo, h9, hd, hm⟩
        · rw [hm] at h
          cases h
          exact .inl ⟨ht, ⟨hh, hp⟩, rfl⟩
        · rw [hm] at h
          cases h
          exact .inr (.inl ⟨ht, ⟨hh, hp⟩, op, tl, hpo, h9, rfl⟩)
        · rw [hm] at h
          exact .inr (.inr (.inl ⟨ht, ⟨hh, hp⟩, i, rest, hd, h, op, tl, hpo, h9⟩))
      · rw [step_of_inFlight ht hh hp] at h
        cases h
        exact .inr (.inr (.inr (.inl ⟨ht, hh, hp, rfl⟩)))
  · rw [step_of_op hc] at h
    cases hd : decode s.par.maxLength [code] with
    | ok p =>
      obtain ⟨i, rest⟩ := p
      rw [hd] at h
      exact .inr (.inr (.inr (.inr ⟨code, ts, i, rest, hc, hd, h⟩)))
    | error e => rw [hd] at h; cases h

/-! ### Runs -/

theorem core_run_zero (s : State) : Host.Core.run Sys2Proof.core 0 s = .next s := rfl

/-- `n + 1` steps from `s` are one step and then `n`. -/
theorem core_run_succ {n : Nat} {s t : State} (h : step s = .next t) :
    Host.Core.run Sys2Proof.core (n + 1) s = Host.Core.run Sys2Proof.core n t := by
  have hr : ∀ (M : Host.Core) (s : M.State), M.run (n + 1) s = match M.step s with
      | .next t => M.run n t
      | .fault r => .fault r
      | .refused r => .refused r := fun _ _ => rfl
  have h' : Sys2Proof.core.step s = .next t := h
  refine (hr Sys2Proof.core s).trans ?_
  rw [h']

end Sys2Proof.Machine
end

