-- ==== Sys2Proof/Tests/Slice0.lean ====
section
/-! SUPPORT. Tests of the model against words and vectors of the spec (30_encoding.md, 95_test_vectors.md), each about one step
on a small state, and for every statement with hypotheses a witness: a state and operands that meet all of them.
The expected results are the spec's; the comment of a test names the vector. -/

namespace Sys2Proof.Tests

open Sys2Proof Sys2Proof.Machine

/-! ### Small states -/

/-- MAX_LENGTH = 2, CAPACITY = 2 (95_test_vectors.md 2.4). -/
def small : Params := { Config.exampleParams with maxLength := 2, capacity := 2 }

/-- A frame of MAX_LENGTH = 2 from its five bytes. -/
def fr (length status p0 p1 p2 : Byte) : Frame := { length := length, status := status, payload := [p0, p1, p2] }

/-- The frames of 2.4. -/
def g1 : Frame := fr 0x02 0x00 0x00 0xA1 0xA2
def g2 : Frame := fr 0x01 0x00 0x00 0xB1 0x00
def r1 : Frame := fr 0x01 0x80 0x01 0xC1 0x00
def r2 : Frame := fr 0x02 0x81 0x02 0xC2 0xC3
def blank : Frame := Frame.zero 2

/-- Queues of CAPACITY = 2 with no, one and two frames. -/
def q0 : Queue := { slots := [blank, blank], head := 0, tail := 0, count := 0 }
def q1 (f : Frame) : Queue := { slots := [f, blank], head := 0, tail := 1, count := 1 }
def q2 (f g : Frame) : Queue := { slots := [f, g], head := 0, tail := 0, count := 2 }

/-- Initialised, poll mode. -/
def poll : State := { State.powerOn small with inited := true }

/-- Initialised, interrupt-driven mode, armed. -/
def irq : State := { poll with cfg := { poll.cfg with irqMode := true }, wake := { armed := true, pending := false } }

/-- A configuration record: pins 1 to 6, clk_div 8 (2.5). -/
def record (variant flags : Byte) : ConfigRecord :=
  { pins := { req := 1, rdy := 2, rst := 3, clk := 4, din := 5, dout := 6 }, clkDiv := 8, variant := variant, flags := flags }

/-- What a test looks at in the next state. -/
def see {α : Type} (f : State → α) : Outcome → Option α
  | .next s => some (f s)
  | .fault _ => none
  | .refused _ => none

/-! ### Well-formedness -/

/-- R96, R21: a SEND operand of the wrong size is refused, one of the right size is not, whatever its `length` byte says. -/
theorem test_wellFormed_refuses_a_frame_of_another_size :
    (Instr.send { length := 0, status := 0, payload := [0, 0] }).wellFormed 2 = false ∧
    (Instr.send { length := 0, status := 0, payload := [0, 0, 0, 0] }).wellFormed 2 = false ∧
    (Instr.send { length := 9, status := 0, payload := [0, 0, 0] }).wellFormed 2 = true := by decide

/-! ### Decoding, from the codes of R100 -/

/-- R97, R100, P2 line 1: every byte of an INITIALIZE command in its place. -/
theorem test_decode_initialize :
    decode 4 [0x00, 0x01, 0x02, 0x03, 0x04, 0x05, 0x06, 0x08, 0x01, 0x01, 0x77] = .ok (.init (record 1 1), [0x77]) := by decide

/-- R91, P2 line 2: a SEND of MAX_LENGTH = 4 is 8 bytes. -/
theorem test_decode_send :
    decode 4 [0x01, 0x02, 0x00, 0x00, 0x11, 0x22, 0x00, 0x00, 0x77] =
      .ok (.send { length := 2, status := 0, payload := [0x00, 0x11, 0x22, 0x00, 0x00] }, [0x77]) := by decide

theorem test_decode_commands :
    decode 4 [0x02] = .ok (.tryReceive, []) ∧ decode 4 [0x03] = .ok (.peekReceive, []) ∧
    decode 4 [0x04] = .ok (.rxqFull, []) ∧ decode 4 [0x05] = .ok (.rxqEmpty, []) ∧
    decode 4 [0x06] = .ok (.txqFull, []) ∧ decode 4 [0x07] = .ok (.txqEmpty, []) ∧
    decode 4 [0x08] = .ok (.flush, []) ∧ decode 4 [0x09] = .ok (.pinReset, []) := by decide

theorem test_decode_queue_operations_on_txq :
    decode 4 [0x10] = .ok (.qInit .tx, []) ∧ decode 4 [0x11] = .ok (.qEnq .tx, []) ∧
    decode 4 [0x12] = .ok (.qDeq .tx, []) ∧ decode 4 [0x13] = .ok (.qPeek .tx, []) ∧
    decode 4 [0x14] = .ok (.qFull .tx, []) ∧ decode 4 [0x15] = .ok (.qEmpty .tx, []) := by decide

theorem test_decode_queue_operations_on_rxq :
    decode 4 [0x18] = .ok (.qInit .rx, []) ∧ decode 4 [0x19] = .ok (.qEnq .rx, []) ∧
    decode 4 [0x1A] = .ok (.qDeq .rx, []) ∧ decode 4 [0x1B] = .ok (.qPeek .rx, []) ∧
    decode 4 [0x1C] = .ok (.qFull .rx, []) ∧ decode 4 [0x1D] = .ok (.qEmpty .rx, []) := by decide

theorem test_decode_line_operations :
    decode 4 [0x20] = .ok (.reqAssert, []) ∧ decode 4 [0x21] = .ok (.reqDeassert, []) ∧
    decode 4 [0x22] = .ok (.rdyRead, []) ∧ decode 4 [0x23] = .ok (.wakeArm, []) ∧
    decode 4 [0x24] = .ok (.wakeDisarm, []) ∧ decode 4 [0x25] = .ok (.resetPulse, []) := by decide

theorem test_decode_engine_and_events :
    decode 4 [0x30] = .ok (.transfer, []) ∧ decode 4 [0x31] = .ok (.schedStep, []) ∧
    decode 4 [0x40] = .ok (.rdyFall, []) ∧ decode 4 [0x41] = .ok (.rdyRise, []) ∧
    decode 4 [0x42] = .ok (.isrService, []) := by decide

/-- R95, R98, R102: reserved functions and units, by name; a short operand, by name. -/
theorem test_decode_rejects_by_name :
    decode 4 [0x0A] = .error (.undefinedCode 0x0A) ∧ decode 4 [0x16] = .error (.undefinedCode 0x16) ∧
    decode 4 [0x1F] = .error (.undefinedCode 0x1F) ∧ decode 4 [0x26] = .error (.undefinedCode 0x26) ∧
    decode 4 [0x32] = .error (.undefinedCode 0x32) ∧ decode 4 [0x43] = .error (.undefinedCode 0x43) ∧
    decode 4 [0x50] = .error (.undefinedCode 0x50) ∧ decode 4 [0x01, 0x02] = .error (.truncated 0x01) ∧
    decode 4 [] = .error .noBytes := by decide

/-- The host's numbering: the code is bits 7 to 0, operand bytes of zeros follow where the table gives none. -/
theorem test_decodeTableWord :
    decodeTableWord 8 0x1A = some (.qDeq .rx) ∧ decodeTableWord 8 0x01 = some (.send (Frame.zero 17)) ∧
    decodeTableWord 8 0x43 = none := by decide

/-! ### BoundedQueue (2.1) -/

/-- Steps 4 and 10 of 2.1 (capacity 3): the tail is written and wraps. -/
theorem test_qEnq_wraps :
    let s := { poll with
      par := { small with capacity := 3 }, txq := { slots := [g1, g2, r1], head := 1, tail := 0, count := 2 }, opframe := r2 }
    see (fun t => (t.txq, t.result.bit)) (exec (.qEnq .tx) s) =
      some ({ slots := [r2, g2, r1], head := 1, tail := 1, count := 3 }, some true) := by decide

/-- Step 8 of 2.1: a full queue is left alone; on RXQ the operand is TE.rx. -/
theorem test_qEnq_rejects_on_full :
    let s := { poll with rxq := q2 r1 r2, te := { poll.te with rx := g1 } }
    see (fun t => (t.rxq, t.result.bit)) (exec (.qEnq .rx) s) = some (q2 r1 r2, some false) := by decide

/-- Step 12 of 2.1: the oldest frame, and the slot keeps its bytes. -/
theorem test_qDeq_takes_the_head :
    let s := { poll with
      par := { small with capacity := 3 }, rxq := { slots := [g1, g2, r1], head := 2, tail := 1, count := 2 } }
    see (fun t => (t.rxq, t.result.frame)) (exec (.qDeq .rx) s) =
      some ({ slots := [g1, g2, r1], head := 0, tail := 1, count := 1 }, some r1) := by decide

/-- Step 17 of 2.1. -/
theorem test_qDeq_rejects_on_empty :
    see (fun t => (t.txq, t.result.bit, t.result.frame)) (exec (.qDeq .tx) poll) = some (q0, some false, none) := by decide

/-- Steps 11 and 3 of 2.1. -/
theorem test_qPeek :
    see (fun t => (t.txq, t.result.frame)) (exec (.qPeek .tx) { poll with txq := q2 g1 g2 }) = some (q2 g1 g2, some g1) ∧
    see (fun t => (t.rxq, t.result.bit)) (exec (.qPeek .rx) poll) = some (q0, some false) := by decide

/-- Step 19 of 2.1. -/
theorem test_qInit :
    see (fun t => t.txq) (exec (.qInit .tx) { poll with txq := { slots := [g1, g2], head := 1, tail := 0, count := 1 } }) =
      some { slots := [g1, g2], head := 0, tail := 0, count := 0 } := by decide

/-- Steps 7 and 16 of 2.1: full and empty both have head = tail. -/
theorem test_queue_flags :
    see (fun t => t.result.bit) (exec (.qFull .rx) { poll with rxq := q2 r1 r2 }) = some (some true) ∧
    see (fun t => t.result.bit) (exec (.qEmpty .rx) { poll with rxq := q2 r1 r2 }) = some (some false) ∧
    see (fun t => t.result.bit) (exec (.qEmpty .tx) poll) = some (some true) ∧
    see (fun t => t.result.bit) (exec (.qFull .tx) poll) = some (some false) := by decide

/-! ### Lines, the wake mechanism, the event steps (2.2) -/

/-- W2 and W4: written again. -/
theorem test_request_line :
    see (fun t => (t.line.req, t.trace)) (exec .reqAssert { poll with line := { poll.line with req := true } }) =
      some (true, [.write .req true]) ∧
    see (fun t => (t.line.req, t.trace)) (exec .reqDeassert poll) = some (false, [.write .req false]) := by decide

/-- W5 and W6. -/
theorem test_rdyRead :
    see (fun t => (t.result.bit, t.trace)) (exec .rdyRead { poll with line := { poll.line with ready := true } }) =
      some (some true, [.read .rdy true]) ∧
    see (fun t => (t.result.bit, t.trace)) (exec .rdyRead poll) = some (some false, [.read .rdy false]) := by decide

/-- W7, W8, W10. -/
theorem test_wakeArm :
    see (fun t => (t.wake, t.trace)) (exec .wakeArm { poll with line := { poll.line with ready := true } }) =
      some ({ armed := true, pending := false }, [.arm .falling]) ∧
    see (fun t => t.wake) (exec .wakeArm
      { poll with par := { small with armSamplesLevel := true }, line := { poll.line with ready := true } }) =
      some { armed := true, pending := true } ∧
    see (fun t => t.wake) (exec .wakeArm { irq with wake := { armed := true, pending := true } }) =
      some { armed := true, pending := true } := by decide

/-- W11. -/
theorem test_wakeDisarm :
    see (fun t => (t.wake, t.trace)) (exec .wakeDisarm { irq with wake := { armed := true, pending := true } }) =
      some ({ armed := false, pending := false }, [.disarm]) := by decide

/-- W13 and W14. -/
theorem test_resetPulse :
    see (fun t => (t.line.rst, t.trace)) (exec .resetPulse poll) =
      some (some true, [.write .rst true, .write .rst false, .write .rst true]) ∧
    see (fun t => (t.line.rst, t.trace)) (exec .resetPulse { poll with cfg := { poll.cfg with variant := 1 } }) =
      some (some false, [.write .rst true, .delay small.tResetLong, .write .rst false]) := by decide

/-- W15 and W16. -/
theorem test_rdyFall :
    see (fun t => (t.line.ready, t.wake.pending)) (exec .rdyFall irq) = some (true, true) ∧
    see (fun t => (t.line.ready, t.wake.pending)) (exec .rdyFall poll) = some (true, false) := by decide

/-- W18. -/
theorem test_rdyRise :
    see (fun t => (t.line.ready, t.wake.pending))
      (exec .rdyRise { irq with line := { irq.line with ready := true }, wake := { armed := true, pending := true } }) =
      some (false, true) := by decide

/-- P5 line 4: one frame each way in one cycle. -/
theorem test_isrService_exchanges :
    let s := { irq with
      txq := q1 g1, line := { irq.line with ready := true }, wake := { armed := true, pending := true }
      replies := [0x80, 0x01, 0xC1] }
    see (fun t => (t.txq.count, t.contents .rx, t.line.req, t.wake)) (exec .isrService s) =
      some (0, [r1], false, { armed := true, pending := false }) := by decide

/-- 2.2: ISR_SERVICE is enabled in one of the sixteen combinations. -/
theorem test_isrService_enabled :
    irq.isrEnabled = false ∧ { irq with wake := { armed := true, pending := true } }.isrEnabled = true ∧
    { irq with wake := { armed := true, pending := true }, halted := true }.isrEnabled = false ∧
    (State.powerOn small).isrEnabled = false := by decide

/-! ### TRANSFER (2.3) -/

/-- A state about to run TRANSFER. -/
def cycle (maxLength : Nat) (out : Frame) (replies : List Byte) : State :=
  { State.powerOn { small with maxLength := maxLength } with
    opframe := out, replies := replies }

/-- The bytes sent, in TRACE. -/
def sentBytes (s : State) : List Byte :=
  s.trace.filterMap fun e => match e with
    | .xchg b _ => some b
    | _ => none

/-- T1 and T3: the source's instances L = 0, D = 5 and L = 10, D = 20 with MAX_LENGTH = 17, the second clamped. -/
theorem test_transfer_source_instances :
    see (fun t => (t.te.m, t.te.rx.length, t.te.rx.payload.take 6, sentBytes t))
      (exec .transfer (cycle 17 (Frame.zero 17) [0x00, 0x05, 0xE1, 0xE2, 0xE3, 0xE4, 0xE5])) =
      some (5, 0x05, [0x05, 0xE1, 0xE2, 0xE3, 0xE4, 0xE5], [0, 0, 0, 0, 0, 0, 0]) ∧
    see (fun t => (t.te.m, t.te.rx.length, t.te.rx.payload.drop 15, (sentBytes t).take 12))
      (exec .transfer (cycle 17
        { length := 10, status := 0
          payload := [0, 0xC1, 0xC2, 0xC3, 0xC4, 0xC5, 0xC6, 0xC7, 0xC8, 0xC9, 0xCA, 0, 0, 0, 0, 0, 0, 0] }
        [0x00, 0x14, 1, 2, 3, 4, 5, 6, 7, 8, 9, 10, 11, 12, 13, 14, 15, 16, 17])) =
      some (17, 0x11, [0x0F, 0x10, 0x11],
        [0x0A, 0xC1, 0xC2, 0xC3, 0xC4, 0xC5, 0xC6, 0xC7, 0xC8, 0xC9, 0xCA, 0x00]) := by decide

/-- T7 and T8: the block pads; the coprocessor pads, and its padding is stored beyond `rx.length`. -/
theorem test_transfer_padding :
    see (fun t => (t.te.rx, sentBytes t))
      (exec .transfer (cycle 4 { length := 3, status := 0, payload := [0, 0xA1, 0xA2, 0xA3, 0] }
        [0x80, 0x04, 0xE1, 0xE2, 0xE3, 0xE4])) =
      some ({ length := 4, status := 0x80, payload := [0x04, 0xE1, 0xE2, 0xE3, 0xE4] }, [0x03, 0xA1, 0xA2, 0xA3, 0x00, 0x00]) ∧
    see (fun t => (t.te.rx, sentBytes t))
      (exec .transfer (cycle 4 { length := 4, status := 0, payload := [0, 0xA1, 0xA2, 0xA3, 0xA4] }
        [0x80, 0x02, 0xE1, 0xE2, 0x99])) =
      some ({ length := 2, status := 0x80, payload := [0x02, 0xE1, 0xE2, 0x99, 0x00] }, [0x04, 0xA1, 0xA2, 0xA3, 0xA4]) := by
  decide

/-! ### SCHED_STEP (2.4) -/

/-- S1, S3, S4: the Guard, and the Ready-line check with TXQ empty and not. -/
theorem test_schedStep_without_a_cycle :
    see (fun t => (t.txq, t.trace)) (exec .schedStep
      { poll with txq := q1 g1, rxq := q2 r1 r2, line := { poll.line with ready := true } }) = some (q1 g1, []) ∧
    see (fun t => (t.line.req, t.trace)) (exec .schedStep poll) = some (false, [.read .rdy false]) ∧
    see (fun t => (t.line.req, t.txq, t.trace)) (exec .schedStep { poll with txq := q1 g1 }) =
      some (true, q1 g1, [.read .rdy false, .write .req true]) := by decide

/-- S7 and S10: Re-arm, and the Capacity edge. -/
theorem test_schedStep_with_a_cycle :
    see (fun t => (t.contents .tx, t.contents .rx, t.line.req, t.trace)) (exec .schedStep
      { poll with txq := q2 g1 g2, line := { poll.line with ready := true }, replies := [0, 0, 0] }) =
      some ([g2], [], true, [.read .rdy true, .write .req true, .xchg 0x02 0, .xchg 0xA1 0, .xchg 0xA2 0,
        .write .req false, .write .req true]) ∧
    see (fun t => (t.contents .tx, t.contents .rx, t.line.req, t.wake, t.trace)) (exec .schedStep
      { irq with txq := q2 g1 g2, rxq := q1 r1, line := { irq.line with ready := true }, replies := [0x81, 0x02, 0xC2, 0xC3] }) =
      some ([g2], [r1, r2], false, { armed := false, pending := false },
        [.read .rdy true, .write .req true, .xchg 0x02 0x81, .xchg 0xA1 0x02, .xchg 0xA2 0xC2, .xchg 0x00 0xC3,
          .write .req false, .disarm]) := by decide

/-- S13: entered after the Guard with RXQ full, the step halts; the frame of TXQ is gone and the wake stays armed. -/
theorem test_fatal_overrun :
    let t := transferStage { irq with
      txq := q1 g1, rxq := q2 r1 r2, line := { irq.line with ready := true }, replies := [0x80, 0x01, 0xC1] }
    t.halted = true ∧ t.txq.count = 0 ∧ t.contents .rx = [r1, r2] ∧ t.line.req = false ∧ t.wake.armed = true ∧
      t.trace.getLast? = some (.halt 0x80) := by decide

/-! ### The application commands -/

/-- P2 line 1: variant 1, interrupt-driven. -/
theorem test_initialize_configures :
    see (fun t => (t.resp, t.wake, t.line, t.inited, t.cfg.irqMode)) (exec (.init (record 1 1)) (State.powerOn small)) =
      some ({ code := .ok, flag := true, frame := none }, { armed := true, pending := false },
        { req := false, ready := false, rst := some false }, true, true) ∧
    see (fun t => t.trace) (exec (.init (record 1 1)) (State.powerOn small)) =
      some [.busConfig 8, .dir .req .output, .dir .rdy .input, .dir .rst .output, .write .rst true,
        .delay small.tResetLong, .write .rst false, .write .req false, .delay small.tInitSettle, .arm .falling,
        .resp 0x00 { code := .ok, flag := true, frame := none }] := by decide

/-- P4 lines 4, 5, 6, with the pin assignment of line 6 rejected: ERR_CONFIG and nothing done. -/
theorem test_initialize_rejects :
    see (fun t => (t.resp.code, t.inited, t.trace.length)) (exec (.init (record 2 1)) (State.powerOn small)) =
      some (.errConfig, false, 1) ∧
    see (fun t => (t.resp.code, t.inited)) (exec (.init (record 0 5)) (State.powerOn small)) = some (.errConfig, false) ∧
    see (fun t => (t.resp.code, t.inited)) (exec (.init (record 0 1))
      (State.powerOn { small with rejectedPins := [(record 0 1).pins] })) = some (.errConfig, false) := by decide

/-- P3 line 6 and line 4: the length test comes first; a frame is stored as given, `status` 55 and `payload[0]` 02. -/
theorem test_send_first_step :
    see (fun t => t.resp.code) (exec (.send (fr 0x09 0 0 0xCC 0)) { poll with txq := q2 g1 g2 }) = some .rejLength ∧
    see (fun t => t.resp.code) (exec (.send (fr 0x01 0 0 0xCC 0)) { poll with txq := q2 g1 g2 }) = some .rejFull ∧
    see (fun t => (t.contents .tx, t.fg.phase, t.trace)) (exec (.send (fr 0x02 0x55 0x02 0xAA 0xBB)) poll) =
      some ([fr 0x02 0x55 0x02 0xAA 0xBB], .send2, []) := by decide

/-- P2 lines 2 and 8: the request line is asserted unless RXQ is full. -/
theorem test_send_second_step :
    see (fun t => (t.line.req, t.trace)) (step { poll with fg := { poll.fg with phase := .send2 } }) =
      some (true, [.write .req true, .resp 0x01 { code := .ok, flag := true, frame := none }]) ∧
    see (fun t => (t.line.req, t.trace)) (step { poll with fg := { poll.fg with phase := .send2 }, rxq := q2 r1 r2 }) =
      some (false, [.resp 0x01 { code := .ok, flag := true, frame := none }]) := by decide

/-- P3 line 7: the tick of TRY_RECEIVE asserts and returns, then RXQ is empty. -/
theorem test_tryReceive_ticks :
    see (fun t => (t.fg.phase, t.line.req, t.trace)) (exec .tryReceive { poll with txq := q1 g1 }) =
      some (.tryRx2, true, [.read .rdy false, .write .req true]) ∧
    see (fun t => t.resp.code) (step { poll with fg := { poll.fg with phase := .tryRx2 } }) = some .rejEmpty := by decide

/-- The example of R205: RXQ full in interrupt-driven mode, so the dequeue re-arms and asserts. -/
theorem test_tryReceive_reopens :
    let s := { irq with rxq := q2 r1 r2, txq := q1 g1, wake := { armed := false, pending := false }, port := [0x02] }
    (match Host.Core.run Sys2Proof.core 3 s with
      | .next t => some (t.resp, t.contents .rx, t.wake.armed, t.line.req, t.trace)
      | _ => none) =
      some ({ code := .ok, flag := true, frame := some r1 }, [r2], true, true,
        [.arm .falling, .write .req true, .resp 0x02 { code := .ok, flag := true, frame := some r1 }]) := by decide

/-- P2 line 12 and P3 line 10. -/
theorem test_peekReceive :
    see (fun t => (t.resp, t.rxq)) (exec .peekReceive { poll with rxq := q2 r1 r2 }) =
      some ({ code := .ok, flag := true, frame := some r1 }, q2 r1 r2) ∧
    see (fun t => t.resp.code) (exec .peekReceive poll) = some .rejEmpty := by decide

/-- The examples of R207 to R210. -/
theorem test_queries :
    see (fun t => t.resp.flag) (exec .rxqFull { poll with rxq := q2 r1 r2 }) = some true ∧
    see (fun t => t.resp.flag) (exec .rxqEmpty poll) = some true ∧
    see (fun t => t.resp.flag) (exec .txqFull { poll with txq := q2 g1 g2 }) = some true ∧
    see (fun t => t.resp.flag) (exec .txqEmpty { poll with txq := q2 g1 g2 }) = some false := by decide

/-- P4 line 14: both queues dropped, the pending wake dropped, the request line kept. -/
theorem test_flush :
    see (fun t => (t.txq.count, t.rxq.count, t.wake, t.line.req, t.trace)) (exec .flush
      { irq with
        txq := q2 g1 g2, line := { irq.line with req := true, ready := true }, wake := { armed := true, pending := true } }) =
      some (0, 0, { armed := true, pending := false }, true,
        [.disarm, .arm .falling, .resp 0x08 { code := .ok, flag := true, frame := none }]) := by decide

/-- P4 line 16. -/
theorem test_pinReset :
    see (fun t => (t.line.rst, t.txq, t.trace)) (exec .pinReset { poll with txq := q1 g1 }) =
      some (some true, q1 g1, [.write .rst true, .write .rst false, .write .rst true,
        .resp 0x09 { code := .ok, flag := true, frame := none }]) := by decide

/-- P4 lines 1, 2, 3, 8: the prologue. -/
theorem test_prologue :
    see (fun t => (t.resp.code, t.port)) (step { State.powerOn small with port := [0x01, 0x01, 0, 0, 0x77, 0] }) =
      some (.errNotInit, []) ∧
    see (fun t => (t.resp.code, t.trace)) (step { State.powerOn small with port := [0x11] }) =
      some (.errUndefOp, [.resp 0x11 { code := .errUndefOp, flag := false, frame := none }]) ∧
    see (fun t => t.resp.code) (step { poll with port := [0x42] }) = some .errUndefOp ∧
    see (fun t => t.resp.code) (exec (.init (record 0 1)) poll) = some .errAlreadyInit := by decide

/-- 2.5, the column HALTED = 1: no step. -/
theorem test_halted_block_has_no_step :
    see (fun t => t.trace) (step { poll with halted := true, port := [0x02] }) = none := by decide

/-- R106: a response as bytes (P3 line 9). -/
theorem test_responseBytes :
    responseBytes { code := .ok, flag := true, frame := some (fr 0x02 0x05 0x07 0x01 0x02) } =
      [0x00, 0x01, 0x02, 0x05, 0x07, 0x01, 0x02] := by decide

/-! ### Witnesses: states and operands that meet the hypotheses of the statements -/

/-- Halted. -/
def halt : State := { poll with halted := true }

/-- The ready line ready. -/
def ready (s : State) : State := { s with line := { s.line with ready := true } }

/-- A command in flight. -/
def inPhase (p : FgPhase) (s : State) : State := { s with fg := { s.fg with phase := p } }

theorem witness_EncodedOperationDecodesBack :
    (Instr.send g1).wellFormed 2 = true ∧ (Instr.init (record 1 3)).wellFormed 2 = true := by decide

theorem witness_DecodedBytesAreTheEncoding :
    decode 2 [0x01, 0x02, 0x00, 0x00, 0xA1, 0xA2, 0x05] = .ok (.send g1, [0x05]) := by decide

theorem witness_StepRunsTheCommandAtThePort :
    let s := { poll with port := [0x01, 0x02, 0x00, 0x00, 0xA1, 0xA2, 0x05], turns := [.fg, .op 0x40] }
    s.accepting ∧ s.fgTurn ∧ decode s.par.maxLength s.port = .ok (.send g1, [0x05]) ∧
      (Instr.send g1).isCommand = true := by decide

theorem witness_StepRunsTheOperationOfATurn :
    decode poll.par.maxLength [0x40] = .ok (.rdyFall, []) ∧
    { poll with turns := [.op 0x40, .fg] }.turns = .op 0x40 :: [.fg] := by decide

theorem witness_StepContinuesTheCommandInFlight :
    poll.halted = false ∧ poll.fgTurn ∧ (inPhase .send2 poll).fg.phase = .send2 ∧
    (inPhase .tryRx2 poll).fg.phase = .tryRx2 ∧ (inPhase .tryRx3 poll).fg.phase = .tryRx3 ∧
    (inPhase .tryRx3 poll).halted = false ∧ (inPhase .tryRx3 poll).fgTurn := by decide

theorem witness_UndefinedCodeAtThePortIsRefused :
    poll.accepting ∧ poll.fgTurn ∧ { poll with port := [0x0A] }.port = 0x0A :: [] ∧ 0x09 < (0x0A#8).toNat ∧
      0x09 < (0xFF#8).toNat ∧ halt.halted = true ∧ halt.fgTurn := by decide

theorem witness_PortWaitsForAWholeCommand :
    poll.accepting ∧ poll.fgTurn ∧ poll.port = [] ∧ (0x01#8).toNat ≤ 0x09 ∧
      [0x02#8, 0, 0, 0xA1].length < operandLength poll.par.maxLength 0x01#8 ∧
      [1#8, 2, 3, 4, 5, 6, 8, 0].length < operandLength poll.par.maxLength 0x00#8 := by decide

theorem witness_HaltedBlockHasNoStep :
    halt.halted = true ∧ halt.fgTurn ∧ Instr.isrService ≠ .rdyFall ∧ Instr.isrService ≠ .rdyRise := by decide

theorem witness_StepFaultsOnlyForANamedReason :
    step halt = .fault .halted ∧
    step { inPhase .send2 poll with turns := [.op 0x02] } = .fault .commandInFlight ∧
    step { poll with turns := [.op 0x00] } = .fault .noSuchOperation := ⟨rfl, rfl, rfl⟩

theorem witness_QInitEmptiesTheQueue : poll.halted = false := by decide

/-- Full, and one short of full; a frame of the build's size. -/
theorem witness_QEnqAppendsOrRejects :
    poll.halted = false ∧ (q2 r1 r2).wf poll.par ∧ (q2 r1 r2).count = poll.par.capacity ∧ (q1 r1).wf poll.par ∧
    (q1 r1).count ≠ poll.par.capacity ∧ g1.shaped poll.par.maxLength = true := by decide

theorem witness_QDeqTakesTheOldest :
    poll.halted = false ∧ q0.wf poll.par ∧ q0.count = 0 ∧ (q1 r1).wf poll.par ∧ (q1 r1).count ≠ 0 := by decide

theorem witness_QPeekReadsTheOldest : irq.halted = false ∧ (q2 r1 r2).wf irq.par ∧ q0.wf irq.par := by decide

theorem witness_QueueFlagsAreQueries : irq.halted = false := by decide

theorem witness_QueueIsABoundedFifo :
    (poll.queue .rx).wf poll.par ∧ ∀ f, QueueAction.enq f ∈ [QueueAction.enq g1, .deq, .enq r2] →
      f.shaped poll.par.maxLength = true := by
  refine ⟨by decide, ?_⟩
  intro f hf
  simp at hf
  rcases hf with rfl | rfl <;> decide

theorem witness_EnqueueThenDequeueReturnsTheFrame :
    (poll.queue .tx).wf poll.par ∧ poll.contents .tx = [] ∧ g1.shaped poll.par.maxLength = true := by decide

theorem witness_ReqAssertDrivesTheLine : poll.halted = false := by decide
theorem witness_ReqDeassertDrivesTheLine : poll.halted = false := by decide
theorem witness_RdyReadSamplesTheLine : (ready poll).halted = false := by decide
theorem witness_WakeArmEnables : (ready irq).halted = false := by decide
theorem witness_WakeDisarmDrops : irq.halted = false := by decide

theorem witness_ResetPulseFollowsTheVariant :
    poll.halted = false ∧ poll.cfg.variant = 0x00#8 ∧
      { poll with cfg := { poll.cfg with variant := 1 } }.cfg.variant = 0x01#8 := by decide

/-- L = MAX_LENGTH and exactly the replies the cycle takes. -/
theorem witness_TransferHasTheClosedForm :
    let s := cycle 4 { length := 4, status := 0, payload := [0, 0xA1, 0xA2, 0xA3, 0xA4] } [0x80, 0x02, 0xE1, 0xE2, 0x99]
    s.halted = false ∧ s.opframe.shaped s.par.maxLength = true ∧ s.opframe.length.toNat ≤ s.par.maxLength ∧
      s.replies = 0x80#8 :: 0x02#8 :: [0xE1, 0xE2, 0x99] ∧
      cycleLength s.par.maxLength s.opframe.length.toNat (0x02#8).toNat ≤ [0xE1#8, 0xE2, 0x99].length := by decide

theorem witness_TransferAlwaysCompletes : (cycle 2 g1 []).halted = false := by decide

theorem witness_GuardHoldsBackTheTransfer :
    let s := { poll with rxq := q2 r1 r2 }
    s.halted = false ∧ s.rxq.count = s.par.capacity := by decide

theorem witness_NotReadyMeansNoTransfer :
    let s := { poll with rxq := q1 r1 }
    s.halted = false ∧ s.rxq.count ≠ s.par.capacity ∧ s.line.ready = false := by decide

theorem witness_ReadyMeansOneTransfer :
    let s := ready { irq with txq := q2 g1 g2, rxq := q1 r1 }
    s.halted = false ∧ s.txq.wf s.par ∧ s.rxq.wf s.par ∧ s.rxq.count ≠ s.par.capacity ∧ s.line.ready = true := by decide

theorem witness_SchedulerDrainsTheTransmitQueue :
    let s := ready { poll with txq := q2 g1 g2, turns := [.op 0x31, .op 0x31], replies := [0, 0, 0, 0, 0, 0, 0, 0, 0x55] }
    s.halted = false ∧ s.par.valid = true ∧ s.txq.wf s.par ∧ s.rxq.wf s.par ∧
      (∀ f ∈ s.contents .tx, f.length.toNat ≤ s.par.maxLength) ∧ s.rxq.count ≠ s.par.capacity ∧
      s.line.ready = true ∧ s.turns = List.replicate 2 (.op 0x31#8) ∧
      s.replies = List.replicate (2 * (s.par.maxLength + 2)) 0x00#8 ++ [0x55] := by decide

theorem witness_NoStepHalts : ∃ t, step { irq with port := [0x08] } = .next t := ⟨_, rfl⟩

theorem witness_RdyFallLatchesTheEdge : poll.line.ready = false ∧ irq.line.ready = false := by decide

theorem witness_RdyRiseWithdrawsReady : (ready irq).line.ready = true := by decide

theorem witness_IsrServiceRunsTheScheduler :
    let s := { irq with wake := { armed := true, pending := true } }
    s.inited = true ∧ s.halted = false ∧ s.wake.armed = true ∧ s.wake.pending = true := by decide

theorem witness_DisabledEventStepPasses :
    (ready poll).line.ready = true ∧ poll.line.ready = false ∧ irq.halted = false ∧ irq.isrEnabled = false := by decide

theorem witness_InterruptContextNeverResponds :
    ∃ t, exec .isrService { irq with wake := { armed := true, pending := true } } = .next t := ⟨_, rfl⟩

theorem witness_PrologueRefuses :
    (State.powerOn small).accepting ∧ (State.powerOn small).inited = false ∧ Instr.flush.isCommand = true ∧
    Instr.flush.code ≠ 0x00#8 ∧ poll.accepting ∧ poll.inited = true ∧ (Instr.init (record 0 1)).isCommand = true ∧
    (Instr.init (record 0 1)).code = 0x00#8 := by decide

/-- The largest legal variant and flags; a variant and a flags byte just beyond; a rejected pin assignment. -/
theorem witness_InitializeConfiguresOrRefuses :
    (State.powerOn small).accepting ∧ (State.powerOn small).inited = false ∧
    ((record 1 3).variant.toNat ≤ 1 ∧ (record 1 3).flags.toNat < 4 ∧ (record 1 3).pins ∉ small.rejectedPins) ∧
    ¬(record 2 0).variant.toNat ≤ 1 ∧ ¬(record 0 4).flags.toNat < 4 ∧
    (record 0 0).pins ∈ { small with rejectedPins := [(record 0 0).pins] }.rejectedPins := by decide

theorem witness_SendQueuesThenAnswers :
    poll.serving ∧ poll.par.maxLength < (fr 3 0 0 0 0).length.toNat ∧ g1.length.toNat ≤ poll.par.maxLength ∧
    { poll with txq := q2 g1 g2 }.txq.count = poll.par.capacity ∧ (q1 g1).wf poll.par ∧
    (q1 g1).count ≠ poll.par.capacity ∧ (inPhase .send2 poll).fg.phase = .send2 ∧
    (inPhase .send2 poll).halted = false ∧ (inPhase .send2 poll).fgTurn := by decide

theorem witness_TryReceiveTicksTakesAndReopens :
    irq.serving ∧ irq.cfg.irqMode = true ∧ poll.serving ∧ poll.cfg.irqMode = false ∧
    (inPhase .tryRx2 poll).halted = false ∧ (inPhase .tryRx2 poll).fgTurn ∧ (inPhase .tryRx2 poll).rxq.wf poll.par ∧
    (inPhase .tryRx2 poll).rxq.count = 0 ∧ (inPhase .tryRx2 { poll with rxq := q2 r1 r2 }).rxq.count ≠ 0 ∧
    (inPhase .tryRx2 { poll with rxq := q2 r1 r2 }).rxq.wf poll.par ∧ (inPhase .tryRx3 irq).fg.phase = .tryRx3 := by decide

theorem witness_PeekReceiveLooksOnly :
    poll.serving ∧ poll.rxq.wf poll.par ∧ poll.rxq.count = 0 ∧ (q1 r1).wf poll.par ∧ (q1 r1).count ≠ 0 := by decide

theorem witness_QueriesAnswerTheFlags :
    irq.serving ∧ Instr.isrService.isEvent = true ∧
      ∃ t, exec .isrService (ready { irq with txq := q1 g1, wake := { armed := true, pending := true } }) = .next t :=
  ⟨by decide, rfl, ⟨_, rfl⟩⟩
theorem witness_FlushEmptiesBothQueues : irq.serving ∧ poll.serving := by decide
theorem witness_PinResetPulsesOnly : poll.serving := by decide

theorem witness_PollReceiveReturnsTheFrameOfItsTick :
    let s := ready { poll with port := [0x02, 0x07], replies := [0x05, 0x07, 0x01, 0x02] }
    s.serving ∧ s.turns = [] ∧ s.port = 0x02#8 :: [0x07] ∧ s.par.valid = true ∧ s.txq.wf s.par ∧ s.rxq.wf s.par ∧
      s.cfg.irqMode = false ∧ s.rxq.count = 0 ∧ s.line.ready = true ∧ s.replies = 0x05#8 :: 0x07#8 :: [0x01, 0x02] ∧
      0x07#8 ≠ 0x00#8 := by decide

theorem witness_EveryCommandIsAnsweredOnce :
    let s := { poll with port := [0x02, 0x07] }
    s.accepting ∧ s.turns = [] ∧ decode s.par.maxLength s.port = .ok (.tryReceive, [0x07]) ∧
      Instr.tryReceive.isCommand = true := by decide

theorem witness_PowerOnMeetsTheInvariant :
    { small with maxLength := 1, capacity := 1 }.valid = true ∧
    { small with maxLength := 255, capacity := 255 }.valid = true := by decide

/-- In interrupt-driven mode the invariant holds with a frame in each queue and a wake pending. -/
theorem witness_Inv_in_interrupt_driven_mode :
    Inv { irq with txq := q1 g1, rxq := q1 r1, wake := { armed := true, pending := true }, turns := [.fg, .op 0x42] } := by
  constructor <;> decide

/-- In poll mode it holds between the tick and the dequeue of a TRY_RECEIVE. -/
theorem witness_Inv_in_poll_mode : Inv (inPhase .tryRx2 { poll with txq := q2 g1 g2, rxq := q1 r1 }) := by
  constructor <;> decide

/-- Both have a next state. -/
theorem witness_StepKeepsTheInvariant :
    (∃ t, step { irq with
      txq := q1 g1, rxq := q1 r1, wake := { armed := true, pending := true }, turns := [.fg, .op 0x42] } = .next t) ∧
    ∃ t, step (inPhase .tryRx2 { poll with txq := q2 g1 g2, rxq := q1 r1 }) = .next t := ⟨⟨_, rfl⟩, ⟨_, rfl⟩⟩

theorem witness_InvariantStatesAlwaysStep : Inv (ready { irq with txq := q2 g1 g2, port := [0x02] }) := by
  constructor <;> decide

/-- Poll mode; and interrupt-driven mode on the foreground's turn. -/
theorem witness_OneContextRunsTheScheduler :
    (Inv { poll with port := [0x02] } ∧ (∃ t, step { poll with port := [0x02] } = .next t) ∧
      poll.cfg.irqMode = false) ∧
    (Inv { irq with port := [0x02] } ∧ (∃ t, step { irq with port := [0x02] } = .next t) ∧
      irq.cfg.irqMode = true ∧ irq.fgTurn) := by
  refine ⟨⟨?_, ⟨_, rfl⟩, by decide⟩, ⟨?_, ⟨_, rfl⟩, by decide⟩⟩ <;> constructor <;> decide

theorem witness_ConfigurationIsReadOnly :
    (∃ t, step { irq with port := [0x00, 1, 2, 3, 4, 5, 6, 8, 0, 1] } = .next t) ∧ irq.inited = true ∧ irq.accepting :=
  ⟨⟨_, rfl⟩, rfl, by decide⟩

theorem witness_InitializedAndTraceAreKept : (∃ t, step { irq with port := [0x09] } = .next t) ∧ irq.inited = true :=
  ⟨⟨_, rfl⟩, rfl⟩

theorem witness_ReadyLineIsTheCoprocessors :
    (∃ t, step { poll with turns := [.op 0x40] } = .next t ∧ t.line.ready ≠ poll.line.ready) ∧
    ∃ t, step { ready poll with turns := [.op 0x41] } = .next t ∧ t.line.ready ≠ (ready poll).line.ready :=
  ⟨⟨_, rfl, by decide⟩, ⟨_, rfl, by decide⟩⟩

theorem witness_DebugEchoHasNoEffect :
    let s := { poll with cfg := { poll.cfg with debugEcho := true } }
    s ≠ poll ∧ s.withoutEcho = poll.withoutEcho := by decide

theorem witness_UnusedSlotsCannotBeObserved :
    let s := { poll with rxq := { slots := [g1, r1], head := 1, tail := 0, count := 1 } }
    let s' := { poll with rxq := q1 r1 }
    s ≠ s' ∧ s.txq.wf s.par ∧ s.rxq.wf s.par ∧ s'.txq.wf s'.par ∧ s'.rxq.wf s'.par ∧ s.observed = s'.observed := by decide

end Sys2Proof.Tests
end

namespace Sys2Proof

/-! ### What decodes -/

/-- The queue select and the function of a code of unit 1 give the code back (R98). -/
theorem queueCode_of_unit {op : Byte} {f : Nat} (hu : opUnit op = 1) (hf : op.toNat % 8 = f) :
    queueCode (decodeQueueSel op) f = op := by
  have h3 : op.getLsbD 3 = decide (op.toNat / 8 % 2 = 1) := by
    simp [BitVec.getLsbD, Nat.testBit_eq_decide_div_mod_eq]
  apply BitVec.eq_of_toNat_eq
  unfold opUnit at hu
  unfold decodeQueueSel
  rw [h3]
  by_cases h : op.toNat / 8 % 2 = 1 <;> simp [h, queueCode] <;> omega

section
variable {maxLength : Nat} {op : Byte} {tl rest : List Byte} {i : Instr}

theorem decodeCommand_ok (hu : opUnit op = 0) (h : decodeCommand maxLength op tl = .ok (i, rest)) :
    i.code = op ∧ i.wellFormed maxLength = true := by
  unfold decodeCommand at h
  split at h
  case h_1 hf =>
    split at h <;> cases h
    exact ⟨(eq_of_unit_function hu hf).symm, rfl⟩
  case h_2 hf =>
    split at h <;> cases h
    next hd => exact ⟨(eq_of_unit_function hu hf).symm, (decodeFrame_eq_some hd).1⟩
  all_goals cases h
  all_goals next hf => exact ⟨(eq_of_unit_function hu hf).symm, rfl⟩

theorem decodeQueueOp_ok (hu : opUnit op = 1) (h : decodeQueueOp op tl = .ok (i, rest)) :
    i.code = op ∧ i.wellFormed maxLength = true := by
  unfold decodeQueueOp at h
  split at h <;> cases h
  all_goals next hf => exact ⟨queueCode_of_unit hu hf, rfl⟩

theorem decodeLineOp_ok (hu : opUnit op = 2) (h : decodeLineOp op tl = .ok (i, rest)) :
    i.code = op ∧ i.wellFormed maxLength = true := by
  unfold decodeLineOp at h
  split at h <;> cases h
  all_goals next hf => exact ⟨(eq_of_unit_function hu hf).symm, rfl⟩

theorem decodeEngineOp_ok (hu : opUnit op = 3) (h : decodeEngineOp op tl = .ok (i, rest)) :
    i.code = op ∧ i.wellFormed maxLength = true := by
  unfold decodeEngineOp at h
  split at h <;> cases h
  all_goals next hf => exact ⟨(eq_of_unit_function hu hf).symm, rfl⟩

theorem decodeEvent_ok (hu : opUnit op = 4) (h : decodeEvent op tl = .ok (i, rest)) :
    i.code = op ∧ i.wellFormed maxLength = true := by
  unfold decodeEvent at h
  split at h <;> cases h
  all_goals next hf => exact ⟨(eq_of_unit_function hu hf).symm, rfl⟩

/-- What decodes has the first byte as its code, and is an operation this build can be given (R94, R96). -/
theorem decode_ok (h : decode maxLength (op :: tl) = .ok (i, rest)) :
    i.code = op ∧ i.wellFormed maxLength = true := by
  unfold decode at h
  dsimp only at h
  split at h
  case h_1 hu => exact decodeCommand_ok hu h
  case h_2 hu => exact decodeQueueOp_ok hu h
  case h_3 hu => exact decodeLineOp_ok hu h
  case h_4 hu => exact decodeEngineOp_ok hu h
  case h_5 hu => exact decodeEvent_ok hu h
  case h_6 => cases h

/-- What decodes from a code of at most 0x09 is an application command (R102). -/
theorem decode_isCommand (h : decode maxLength (op :: tl) = .ok (i, rest)) (h9 : op.toNat ≤ 0x09) :
    i.isCommand = true := by
  rw [← (decode_ok h).1] at h9
  exact (code_le_nine_iff i).1 h9

end
end Sys2Proof

namespace Sys2Proof.Machine
open Sys2Proof

/-! ### The command in flight -/

theorem fgMicroStep_of_send2 {s : State} (h : s.fg.phase = .send2) : fgMicroStep s = sendStep2 s := by
  simp [fgMicroStep, h]

theorem fgMicroStep_of_tryRx2 {s : State} (h : s.fg.phase = .tryRx2) : fgMicroStep s = tryRxStep2 s := by
  simp [fgMicroStep, h]

theorem fgMicroStep_of_tryRx3 {s : State} (h : s.fg.phase = .tryRx3) : fgMicroStep s = tryRxStep3 s := by
  simp [fgMicroStep, h]

/-- Settles O7: in flight the foreground's step is `fgMicroStep`, which has one case a phase. -/
theorem stepContinuesTheCommandInFlight : Obligations.StepContinuesTheCommandInFlight := by
  intro s hh ht
  refine ⟨fun hp => ?_, fun hp => ?_, fun hp => ?_⟩
  · rw [step_of_inFlight ht hh (by simp [hp]), fgMicroStep_of_send2 (by exact hp)]
  · rw [step_of_inFlight ht hh (by simp [hp]), fgMicroStep_of_tryRx2 (by exact hp)]
  · rw [step_of_inFlight ht hh (by simp [hp]), fgMicroStep_of_tryRx3 (by exact hp)]

/-! ### The closed form of a cycle -/

/-- What a cycle whose replies are all at hand receives: the frame of the closed form (R169, R173). -/
theorem runTransfer_received (out : Frame) (s : State) (status D : Byte) (more : List Byte)
    (hr : s.replies = status :: D :: more)
    (hm : cycleLength s.par.maxLength out.length.toNat D.toNat ≤ more.length) :
    (runTransfer out s).te.rx =
      cycleReceived s.par.maxLength (cycleLength s.par.maxLength out.length.toNat D.toNat) status D more := by
  have hn : nextReply s = status := nextReply_cons hr
  have ht : (takeReply s).replies = D :: more := by simp [hr]
  have hD : declared s = D := nextReply_cons ht
  obtain ⟨-, -, -, -, -, hlen, hst, -, -⟩ := runTransfer_registers out s
  have hb := beforePayload_eq out s
  rw [hn, hD, negotiate_eq_cycleLength] at hb
  have hle := cycleLength_le s.par.maxLength out.length.toNat D.toNat
  obtain ⟨hpay, -⟩ := tePayloads_of_replies (beforePayload out s).te.m 1 (beforePayload out s)
    (by rw [hb]; simpa [hr] using hm) (by simp [hb]; omega)
  have hp : (runTransfer out s).te.rx.payload =
      (tePayloads (beforePayload out s).te.m 1 (beforePayload out s)).te.rx.payload := rfl
  rw [hpay, hb] at hp
  rw [hD] at hlen
  rw [hn] at hst
  generalize (runTransfer out s).te.rx = rx at *
  cases rx
  simp_all [cycleReceived, Nat.add_comm 1]

/-- TRANSFER called in a block that is not halted is the cycle with OPFRAME (R46, R105). -/
theorem exec_transfer_runs (s : State) (h : s.halted = false) :
    exec .transfer s = .next { runTransfer s.opframe s with
      result := { bit := none, frame := some (runTransfer s.opframe s).te.rx
                  count := some (runTransfer s.opframe s).te.m } } :=
  by rw [exec, execTransfer, direct_runs _ s h]; rfl

/-- Settles O25: the cycle's frame and registers, its events and what it consumes, put together. -/
theorem transferHasTheClosedForm : Obligations.TransferHasTheClosedForm := by
  intro s status D more hh hs hl hr hm
  have hD : declared s = D := nextReply_cons (show (takeReply s).replies = D :: more by simp [hr])
  obtain ⟨hph, hreq, hout, hd, hteM, -⟩ := runTransfer_registers s.opframe s
  obtain ⟨hrep, hdrawn, -⟩ := runTransfer_consumes s.opframe s
  have htr := runTransfer_trace s.opframe s status D more hs hl hr hm
  have hrx := runTransfer_received s.opframe s status D more hr hm
  have honly := runTransfer_onlyCycle s.opframe s
  rw [hD] at hd hteM
  have hrep' : (runTransfer s.opframe s).replies =
      more.drop (cycleLength s.par.maxLength s.opframe.length.toNat D.toNat) := by
    rw [hrep, hteM, hr, Nat.add_comm]; rfl
  have hdrawn' : (runTransfer s.opframe s).drawn = s.drawn := by
    rw [hdrawn, hteM, hr]; simp; omega
  refine ⟨_, _, rfl, exec_transfer_runs s hh, hph, hout, hd, hteM, hrx, ?_⟩
  unfold OnlyCycle at honly
  rw [hreq, htr, hrep', hdrawn'] at honly
  generalize runTransfer s.opframe s = t at honly hteM ⊢
  rw [← hteM] at honly ⊢
  rw [honly]

/-! ### The power-on state -/

/-- A queue is empty at power-on. -/
theorem powerOn_contents (p : Params) : (Queue.powerOn p).contents p = [] := contents_of_empty _ _ rfl

theorem powerOn_inv (p : Params) (h : p.valid = true) : Inv (State.powerOn p) := by
  have hc : 0 < p.capacity := by simp [Params.valid] at h; omega
  have hf : (State.powerOn p).qFull .rx = false := (qFull_eq_false_iff _ _).2 (by exact hc.ne)
  have hno : ∀ f : Frame, f ∉ (Queue.powerOn p).contents p := by simp [powerOn_contents]
  exact
    { params := h
      txqWf := wf_powerOn p hc
      rxqWf := wf_powerOn p hc
      txqLengths := fun f hm => absurd hm (hno f)
      rxqFrames := fun f hm => absurd hm (hno f)
      running := rfl
      engineIdle := rfl
      pendingArmed := nofun
      pollQuiet := fun _ => rfl
      armedRoom := nofun
      fresh := fun _ => ⟨rfl, rfl⟩
      roomArmed := nofun
      reopening := nofun
      pollEmpty := nofun
      pollTick := nofun
      disciplined := rfl }

/-- Settles O48: at power-on both queues are empty and everything the invariant speaks of is off. -/
theorem powerOnMeetsTheInvariant : Obligations.PowerOnMeetsTheInvariant :=
  ⟨powerOn_inv, rfl, by decide, powerOn_inv _ (by decide)⟩

end Sys2Proof.Machine

namespace Sys2Proof.Machine
open Sys2Proof

/-! ### What every step keeps -/

/-- From `s` to `t` the parameters and the ready line are kept, CFG and INITIALIZED are kept once the block is initialised,
and TRACE only grows at its end (R8, R33, R36, R40, R48). -/
structure Evolves (s t : State) : Prop where
  par : t.par = s.par
  ready : t.line.ready = s.line.ready
  kept : s.inited = true → t.inited = true ∧ t.cfg = s.cfg
  trace : s.trace <+: t.trace

theorem Evolves.trans {s t u : State} (h : Evolves s t) (h' : Evolves t u) : Evolves s u where
  par := h'.par.trans h.par
  ready := h'.ready.trans h.ready
  kept hi := by
    obtain ⟨ht, hcfg⟩ := h.kept hi
    obtain ⟨hu, hcfg'⟩ := h'.kept ht
    exact ⟨hu, hcfg'.trans hcfg⟩
  trace := h.trace.trans h'.trace

/-- An update of none of those fields but TRACE, which it only extends. -/
theorem Evolves.of_kept {s t : State} (hp : t.par = s.par) (hr : t.line.ready = s.line.ready)
    (hi : t.inited = s.inited) (hc : t.cfg = s.cfg) (ht : s.trace <+: t.trace) : Evolves s t :=
  ⟨hp, hr, fun h => ⟨hi.trans h, hc⟩, ht⟩

/-- An update of none of those fields at all. -/
theorem Evolves.of_eq {s t : State} (hp : t.par = s.par) (hr : t.line.ready = s.line.ready)
    (hi : t.inited = s.inited) (hc : t.cfg = s.cfg) (ht : t.trace = s.trace) : Evolves s t :=
  .of_kept hp hr hi hc (ht ▸ List.prefix_rfl)

theorem emit_evolves (e : Event) (s : State) : Evolves s (emit e s) :=
  .of_kept rfl rfl rfl rfl (List.prefix_append _ _)

theorem respondWith_evolves (op : Byte) (r : Response) (s : State) : Evolves s (respondWith op r s) :=
  .of_kept rfl rfl rfl rfl (List.prefix_append _ _)

theorem reqAssert_evolves (s : State) : Evolves s (reqAssert s) := .of_kept rfl rfl rfl rfl (List.prefix_append _ _)

theorem reqDeassert_evolves (s : State) : Evolves s (reqDeassert s) :=
  .of_kept rfl rfl rfl rfl (List.prefix_append _ _)

theorem wakeArm_evolves (s : State) : Evolves s (wakeArm s) := .of_kept rfl rfl rfl rfl (List.prefix_append _ _)

theorem wakeDisarm_evolves (s : State) : Evolves s (wakeDisarm s) := .of_kept rfl rfl rfl rfl (List.prefix_append _ _)

theorem rdyRead_evolves (s : State) : Evolves s (rdyRead s).2 := emit_evolves _ s

theorem resetPulse_evolves (s : State) : Evolves s (resetPulse s) :=
  .of_kept (by simp) (by simp) (by simp) (by simp) (by simp)

theorem setQueue_evolves (q : QueueSel) (v : Queue) (s : State) : Evolves s (setQueue q v s) := by
  cases q <;> exact .of_eq rfl rfl rfl rfl rfl

theorem initQueue_evolves (q : QueueSel) (s : State) : Evolves s (initQueue q s) := setQueue_evolves q _ s

theorem enqueue_evolves (q : QueueSel) (f : Frame) (s : State) : Evolves s (enqueue q f s).2 := by
  rw [enqueue_frame]; exact setQueue_evolves q _ s

theorem dequeue_evolves (q : QueueSel) (s : State) : Evolves s (dequeue q s).2 := by
  rw [dequeue_frame]; exact setQueue_evolves q _ s

theorem runTransfer_evolves (out : Frame) (s : State) : Evolves s (runTransfer out s) := by
  obtain ⟨hp, -, -, hc, -, hi, -, -, -, -, -, -, -, -, hr, -⟩ := (runTransfer_onlyCycle out s).fields
  obtain ⟨-, -, pairs, -, ht⟩ := runTransfer_consumes out s
  exact .of_kept hp hr hi hc (by rw [ht]; simp)

theorem runSchedStep_evolves (s : State) : Evolves s (runSchedStep s) := by
  obtain ⟨es, ht, -⟩ := runSchedStep_events s
  exact .of_kept (by simp) (by simp) (by simp) (by simp) (by rw [ht]; exact List.prefix_append _ _)

/-! ### The commands -/

/-- The tick of TRY_RECEIVE's first micro-step: a scheduler step in poll mode only (R205). -/
def receiveTick (s : State) : State := if s.cfg.irqMode then s else runSchedStep s

/-- The tick never halts (R190), so a block that accepts the command reaches micro-step 2. -/
theorem tryRxStep1_eq (s : State) :
    tryRxStep1 s = if s.halted then receiveTick s
      else { receiveTick s with fg := { (receiveTick s).fg with phase := .tryRx2 } } := by
  have h : (receiveTick s).halted = s.halted := by unfold receiveTick; split <;> simp
  rw [← h]
  rfl

theorem armIfIrq_evolves (s : State) : Evolves s (armIfIrq s) := by
  unfold armIfIrq
  split
  · exact wakeArm_evolves s
  · exact .of_eq rfl rfl rfl rfl rfl

theorem disarmIfIrq_evolves (s : State) : Evolves s (disarmIfIrq s) := by
  unfold disarmIfIrq
  split
  · exact wakeDisarm_evolves s
  · exact .of_eq rfl rfl rfl rfl rfl

/-- INITIALIZE's body writes CFG, and runs only before the block is initialised (R33). -/
theorem initBody_evolves (s : State) (h : s.inited = false) : Evolves s (initBody s) := by
  unfold initBody
  split
  · have hstore : Evolves s (initStore s) :=
      ⟨rfl, rfl, fun hi => by simp [h] at hi, List.prefix_append _ _⟩
    have hdirs (t : State) : Evolves t (setDirections t) :=
      ((emit_evolves _ t).trans (emit_evolves _ _)).trans (emit_evolves _ _)
    have hlines (t : State) : Evolves t (initLines t) :=
      (((hdirs t).trans (resetPulse_evolves _)).trans (reqDeassert_evolves _)).trans (emit_evolves _ _)
    have hinited (t : State) : Evolves t { t with inited := true } := ⟨rfl, rfl, fun _ => ⟨rfl, rfl⟩, List.prefix_rfl⟩
    exact (((hstore.trans (hlines _)).trans (armIfIrq_evolves _)).trans (hinited _)).trans (respondWith_evolves _ _ _)
  · exact respondWith_evolves _ _ _

theorem sendStep1_evolves (s : State) : Evolves s (sendStep1 s) := by
  unfold sendStep1
  split
  · exact respondWith_evolves _ _ _
  · split
    · exact (enqueue_evolves .tx s.opframe s).trans (.of_eq rfl rfl rfl rfl rfl)
    · exact respondWith_evolves _ _ _

theorem sendStep2_evolves (s : State) : Evolves s (sendStep2 s) := by
  unfold sendStep2
  split
  · exact (reqAssert_evolves s).trans (respondWith_evolves _ _ _)
  · exact respondWith_evolves _ _ _

theorem tryRxStep1_evolves (s : State) : Evolves s (tryRxStep1 s) := by
  have htick : Evolves s (receiveTick s) := by
    unfold receiveTick
    split
    · exact .of_eq rfl rfl rfl rfl rfl
    · exact runSchedStep_evolves s
  rw [tryRxStep1_eq]
  split
  · exact htick
  · exact htick.trans (.of_eq rfl rfl rfl rfl rfl)

theorem tryRxStep2_evolves (s : State) : Evolves s (tryRxStep2 s) := by
  have htake : Evolves s { (dequeue .rx s).2 with fg := { s.fg with wasFull := s.qFull .rx } } :=
    (dequeue_evolves .rx s).trans (.of_eq rfl rfl rfl rfl rfl)
  unfold tryRxStep2
  split
  · exact htake.trans (respondWith_evolves _ _ _)
  · exact htake.trans (.of_eq rfl rfl rfl rfl rfl)

theorem reopen_evolves (s : State) : Evolves s (reopen s) := by
  unfold reopen
  split
  · exact wakeArm_evolves s
  · exact (wakeArm_evolves s).trans (reqAssert_evolves _)

theorem tryRxStep3_evolves (s : State) : Evolves s (tryRxStep3 s) := by
  unfold tryRxStep3
  split
  · exact (reopen_evolves s).trans (respondWith_evolves _ _ _)
  · exact respondWith_evolves _ _ _

theorem peekBody_evolves (s : State) : Evolves s (peekBody s) := by
  unfold peekBody
  split <;> exact respondWith_evolves _ _ _

theorem flushBody_evolves (s : State) : Evolves s (flushBody s) :=
  ((((disarmIfIrq_evolves s).trans (initQueue_evolves .tx _)).trans (initQueue_evolves .rx _)).trans
    (armIfIrq_evolves _)).trans (respondWith_evolves _ _ _)

theorem fgMicroStep_evolves (s : State) : Evolves s (fgMicroStep s) := by
  unfold fgMicroStep
  split
  · exact .of_eq rfl rfl rfl rfl rfl
  · exact sendStep2_evolves s
  · exact tryRxStep2_evolves s
  · exact tryRxStep3_evolves s

/-! ### Every operation -/

/-- A command whose body keeps what is kept, keeps it. -/
theorem accept_evolves {op : Byte} {body : State → State} {s t : State} (h : accept op body s = .next t)
    (hb : (op ≠ 0x00#8 ↔ s.inited = true) → Evolves s (body s)) : Evolves s t := by
  obtain ⟨-, -, ⟨rfl, -⟩ | ⟨rfl, -⟩ | ⟨rfl, hi⟩⟩ := accept_next h
  · exact respondWith_evolves _ _ _
  · exact respondWith_evolves _ _ _
  · exact hb hi

theorem direct_evolves {op : State → CallResult × State} {s t : State} (h : direct op s = .next t)
    (ho : Evolves s (op s).2) : Evolves s t := by
  unfold direct at h
  split at h <;> cases h
  exact ho.trans (.of_eq rfl rfl rfl rfl rfl)

/-- Every operation but the coprocessor's two line steps. -/
theorem exec_evolves {i : Instr} {s t : State} (h : exec i s = .next t) (hf : i ≠ .rdyFall) (hr : i ≠ .rdyRise) :
    Evolves s t := by
  have hs : Evolves s s := .of_eq rfl rfl rfl rfl rfl
  cases i with
  | init c =>
    have hc : Evolves s { s with opcfg := c } := .of_eq rfl rfl rfl rfl rfl
    exact hc.trans (accept_evolves h fun hi => initBody_evolves _ (by simpa using hi))
  | send f =>
    have hc : Evolves s { s with opframe := f } := .of_eq rfl rfl rfl rfl rfl
    exact hc.trans (accept_evolves h fun _ => sendStep1_evolves _)
  | tryReceive => exact accept_evolves h fun _ => tryRxStep1_evolves s
  | peekReceive => exact accept_evolves h fun _ => peekBody_evolves s
  | flush => exact accept_evolves h fun _ => flushBody_evolves s
  | pinReset =>
    rw [exec, execPinReset] at h
    exact accept_evolves h fun _ => (resetPulse_evolves s).trans (respondWith_evolves _ _ _)
  | rxqFull | rxqEmpty | txqFull | txqEmpty => exact accept_evolves h fun _ => respondWith_evolves _ _ _
  | qInit q => exact direct_evolves h (initQueue_evolves q s)
  | qEnq q => rw [exec, execQEnq] at h; exact direct_evolves h (enqueue_evolves q _ s)
  | qDeq q => rw [exec, execQDeq] at h; exact direct_evolves h (dequeue_evolves q s)
  | qPeek q | qFull q | qEmpty q => exact direct_evolves h hs
  | reqAssert => exact direct_evolves h (reqAssert_evolves s)
  | reqDeassert => exact direct_evolves h (reqDeassert_evolves s)
  | rdyRead => rw [exec, execRdyRead] at h; exact direct_evolves h (rdyRead_evolves s)
  | wakeArm => exact direct_evolves h (wakeArm_evolves s)
  | wakeDisarm => exact direct_evolves h (wakeDisarm_evolves s)
  | resetPulse => exact direct_evolves h (resetPulse_evolves s)
  | transfer => rw [exec, execTransfer] at h; exact direct_evolves h (runTransfer_evolves _ s)
  | schedStep => exact direct_evolves h (runSchedStep_evolves s)
  | rdyFall => exact absurd rfl hf
  | rdyRise => exact absurd rfl hr
  | isrService =>
    have henter : Evolves s (irqEnter s) := .of_eq rfl rfl rfl rfl rfl
    rw [exec, execIsrService] at h
    split at h
    · cases h
    · split at h <;> cases h
      · exact henter.trans (runSchedStep_evolves _)
      · exact hs

/-- What the coprocessor's two line steps do: nothing but LINE.ready and the wake latch (R187, R188). -/
theorem exec_lineStep {i : Instr} {s t : State} (hi : i = .rdyFall ∨ i = .rdyRise) (h : exec i s = .next t) :
    t = { s with line := { s.line with ready := t.line.ready }, wake := { s.wake with pending := t.wake.pending } } := by
  rcases hi with rfl | rfl
  · rw [exec, execRdyFall] at h; split at h <;> cases h <;> rfl
  · rw [exec, execRdyRise] at h; split at h <;> cases h <;> rfl

/-- RDY_FALL raises the ready level only from 0 (R187). -/
theorem exec_rdyFall_ready {s t : State} (h : exec .rdyFall s = .next t) (hne : t.line.ready ≠ s.line.ready) :
    s.line.ready = false := by
  rw [exec, execRdyFall] at h
  split at h <;> cases h
  · exact absurd rfl hne
  · simpa using ‹¬s.line.ready = true›

/-- RDY_RISE lowers the ready level only from 1 (R188). -/
theorem exec_rdyRise_ready {s t : State} (h : exec .rdyRise s = .next t) (hne : t.line.ready ≠ s.line.ready) :
    s.line.ready = true := by
  rw [exec, execRdyRise] at h
  split at h <;> cases h
  · assumption
  · exact absurd rfl hne

/-! ### Every step -/

/-- A step keeps what is kept, or is a turn of one of the coprocessor's two line steps. -/
theorem step_evolves {s t : State} (h : step s = .next t) :
    Evolves s t ∨ ∃ i ts, (i = .rdyFall ∨ i = .rdyRise) ∧ s.turns = .op i.code :: ts ∧
      exec i { s with turns := ts } = .next t := by
  have hport (p : List Byte) (ts : List Turn) : Evolves s { s with port := p, turns := ts } :=
    .of_eq rfl rfl rfl rfl rfl
  have hturn (ts : List Turn) : Evolves s { s with turns := ts } := .of_eq rfl rfl rfl rfl rfl
  rcases step_next h with ⟨-, -, rfl⟩ | ⟨-, -, op, tl, -, -, rfl⟩ | ⟨-, -, i, rest, hd, he, op, tl, hp, h9⟩ |
    ⟨-, -, -, rfl⟩ | ⟨code, ts, i, rest, ht, hd, he⟩
  · exact .inl (hturn _)
  · exact .inl ((hport _ _).trans (respondWith_evolves _ _ _))
  · rw [hp] at hd
    have hi := decode_isCommand hd h9
    exact .inl ((hport _ _).trans (exec_evolves he (by rintro rfl; cases hi) (by rintro rfl; cases hi)))
  · exact .inl ((hturn _).trans (fgMicroStep_evolves _))
  · by_cases hi : i = .rdyFall ∨ i = .rdyRise
    · exact .inr ⟨i, ts, hi, by rw [(decode_ok hd).1, ht], he⟩
    · exact .inl ((hturn ts).trans (exec_evolves he (fun e => hi (.inl e)) fun e => hi (.inr e)))

/-- Everything but the ready line is kept by the line steps too. -/
theorem step_keeps {s t : State} (h : step s = .next t) :
    t.par = s.par ∧ (s.inited = true → t.inited = true ∧ t.cfg = s.cfg) ∧ s.trace <+: t.trace := by
  rcases step_evolves h with he | ⟨i, ts, hi, -, he⟩
  · exact ⟨he.par, he.kept, he.trace⟩
  · rw [exec_lineStep hi he]
    exact ⟨rfl, fun h => ⟨h, rfl⟩, List.prefix_rfl⟩

/-- Settles O52: no step writes CFG once INITIALIZED is set, and the prologue refuses a second INITIALIZE. -/
theorem configurationIsReadOnly : Obligations.ConfigurationIsReadOnly := by
  refine ⟨fun s t h => ?_, fun s c ha hi => ?_⟩
  · obtain ⟨hpar, hkept, -⟩ := step_keeps h
    exact ⟨hpar, fun hi => (hkept hi).2⟩
  · exact ⟨_, accept_alreadyInit initBody { s with opcfg := c } ha hi, rfl, rfl⟩

/-- Settles O53: every step, the coprocessor's included, keeps both (`step_keeps`). -/
theorem initializedAndTraceAreKept : Obligations.InitializedAndTraceAreKept := by
  intro s t h
  obtain ⟨-, hk, es, ht⟩ := step_keeps h
  exact ⟨fun hi => (hk hi).1, es, ht.symm⟩

/-- Settles O54: every other step keeps LINE.ready, and each of the two moves it in its own direction only. -/
theorem readyLineIsTheCoprocessors : Obligations.ReadyLineIsTheCoprocessors := by
  intro s t h hne
  rcases step_evolves h with he | ⟨i, ts, rfl | rfl, ht, he⟩
  · exact absurd he.ready hne
  · exact .inl ⟨exec_rdyFall_ready (s := { s with turns := ts }) he hne, ts, ht⟩
  · exact .inr ⟨exec_rdyRise_ready (s := { s with turns := ts }) he hne, ts, ht⟩

end Sys2Proof.Machine

namespace Sys2Proof.Machine
open Sys2Proof

/-! ### Comparing two runs

Two states that agree but for their queues and the debug-echo flag are compared through one relation, and every step is
shown to keep it. The debug-echo flag (R34) and the place of the live window (R30, R31) are the two cases of it. -/

/-- The state with its queues and its debug-echo flag replaced. -/
def State.swap (tx rx : Queue) (echo : Bool) (s : State) : State :=
  { s with txq := tx, rxq := rx, cfg := { s.cfg with debugEcho := echo } }

/-- Whether a queue has been operated on in the step under way. -/
inductive Stage where
  | before
  | after

/-- A way to compare two queues of a build, and two values of the debug-echo flag, that the queue operations respect. One
operation a step is all a queue sees, so what is asked of it before the operation may be more than what is left after. -/
structure Comparison where
  rel : Stage → Params → Queue → Queue → Prop
  echo : Bool → Bool → Prop
  settle : ∀ {g p q q'}, rel g p q q' → rel .after p q q'
  count : ∀ {g p q q'}, rel g p q q' → q'.count = q.count
  front : ∀ {p q q'}, rel .before p q q' → q.count ≠ 0 → q'.front p.maxLength = q.front p.maxLength
  push : ∀ {p q q'} (f : Frame), rel .before p q q' → q.count ≠ p.capacity →
    rel .after p (q.push p.capacity f) (q'.push p.capacity f)
  pop : ∀ {p q q'}, rel .before p q q' → rel .after p (q.pop p.capacity) (q'.pop p.capacity)
  init : ∀ {p q q'}, rel .before p q q' →
    rel .after p { q with head := 0, tail := 0, count := 0 } { q' with head := 0, tail := 0, count := 0 }
  echo_refl : ∀ b, echo b b

/-- Two states that agree but for their queues and the debug-echo flag, which `C` relates; `g` says which queues have been
operated on. -/
structure Alike (C : Comparison) (g : QueueSel → Stage) (s s' : State) : Prop where
  same : s' = s.swap s'.txq s'.rxq s'.cfg.debugEcho
  queues : ∀ q, C.rel (g q) s.par (s.queue q) (s'.queue q)
  echo : C.echo s.cfg.debugEcho s'.cfg.debugEcho

/-- No queue has been operated on. -/
def untouched : QueueSel → Stage := fun _ => .before

/-- The queues may have been operated on. -/
def touched : QueueSel → Stage := fun _ => .after

section
variable {C : Comparison} {g : QueueSel → Stage} {s s' : State}

namespace Alike

theorem settle (h : Alike C g s s') : Alike C touched s s' := ⟨h.same, fun q => C.settle (h.queues q), h.echo⟩

/-- What does not depend on the queues and the flag, the two states share. -/
theorem shared {α : Type} (h : Alike C g s s') (f : State → α)
    (hf : ∀ tx rx e, f (s.swap tx rx e) = f s := by intros; rfl) : f s' = f s :=
  (congrArg f h.same).trans (hf _ _ _)

theorem par (h : Alike C g s s') : s'.par = s.par := h.shared State.par
theorem irqMode (h : Alike C g s s') : s'.cfg.irqMode = s.cfg.irqMode := h.shared (·.cfg.irqMode)
theorem line (h : Alike C g s s') : s'.line = s.line := h.shared State.line
theorem inited (h : Alike C g s s') : s'.inited = s.inited := h.shared State.inited
theorem halted (h : Alike C g s s') : s'.halted = s.halted := h.shared State.halted
theorem te (h : Alike C g s s') : s'.te = s.te := h.shared State.te
theorem fg (h : Alike C g s s') : s'.fg = s.fg := h.shared State.fg
theorem opframe (h : Alike C g s s') : s'.opframe = s.opframe := h.shared State.opframe
theorem opcfg (h : Alike C g s s') : s'.opcfg = s.opcfg := h.shared State.opcfg
theorem port (h : Alike C g s s') : s'.port = s.port := h.shared State.port
theorem turns (h : Alike C g s s') : s'.turns = s.turns := h.shared State.turns
theorem isrEnabled (h : Alike C g s s') : s'.isrEnabled = s.isrEnabled := h.shared State.isrEnabled

theorem qFull (h : Alike C g s s') (q : QueueSel) : s'.qFull q = s.qFull q := by
  simp [State.qFull, Queue.full, C.count (h.queues q), h.par]

theorem qEmpty (h : Alike C g s s') (q : QueueSel) : s'.qEmpty q = s.qEmpty q := by
  simp [State.qEmpty, Queue.empty, C.count (h.queues q)]

end Alike

/-! ### Updates that see neither the queues nor the flag -/

/-- `op` neither reads nor writes the queues and the debug-echo flag, and keeps the parameters. -/
structure Blind (op : State → State) : Prop where
  swap : ∀ (tx rx : Queue) (e : Bool) (s : State), op (s.swap tx rx e) = (op s).swap tx rx e
  par : ∀ s, (op s).par = s.par

namespace Blind
variable {op op' : State → State}

theorem comp (h' : Blind op') (h : Blind op) : Blind (fun s => op' (op s)) where
  swap tx rx e s := by rw [h.swap, h'.swap]
  par s := (h'.par _).trans (h.par s)

theorem self (h : Blind op) (s : State) : op s = (op s).swap s.txq s.rxq s.cfg.debugEcho :=
  h.swap s.txq s.rxq s.cfg.debugEcho s

theorem queue (h : Blind op) (s : State) (q : QueueSel) : (op s).queue q = s.queue q := by
  rw [h.self s]; cases q <;> rfl

theorem debugEcho (h : Blind op) (s : State) : (op s).cfg.debugEcho = s.cfg.debugEcho := by
  rw [h.self s]; rfl

end Blind

theorem Alike.blind {op : State → State} (hop : Blind op) (h : Alike C g s s') : Alike C g (op s) (op s') where
  same := by
    have e := congrArg op h.same
    rw [hop.swap] at e
    have htx : (op s').txq = s'.txq := hop.queue s' .tx
    have hrx : (op s').rxq = s'.rxq := hop.queue s' .rx
    rw [htx, hrx, hop.debugEcho]
    exact e
  queues q := by rw [hop.queue, hop.queue, hop.par]; exact h.queues q
  echo := by rw [hop.debugEcho, hop.debugEcho]; exact h.echo

theorem emit_blind (e : Event) : Blind (emit e) := ⟨fun _ _ _ _ => rfl, fun _ => rfl⟩
theorem respondWith_blind (op : Byte) (r : Response) : Blind (respondWith op r) := ⟨fun _ _ _ _ => rfl, fun _ => rfl⟩
theorem reqAssert_blind : Blind reqAssert := ⟨fun _ _ _ _ => rfl, fun _ => rfl⟩
theorem reqDeassert_blind : Blind reqDeassert := ⟨fun _ _ _ _ => rfl, fun _ => rfl⟩
theorem rdyRead_blind : Blind (fun s => (rdyRead s).2) := ⟨fun _ _ _ _ => rfl, fun _ => rfl⟩
theorem wakeArm_blind : Blind wakeArm := ⟨fun _ _ _ _ => rfl, fun _ => rfl⟩
theorem wakeDisarm_blind : Blind wakeDisarm := ⟨fun _ _ _ _ => rfl, fun _ => rfl⟩
theorem irqEnter_blind : Blind irqEnter := ⟨fun _ _ _ _ => rfl, fun _ => rfl⟩
theorem fatalHalt_blind : Blind fatalHalt := ⟨fun _ _ _ _ => rfl, fun _ => rfl⟩
theorem setDirections_blind : Blind setDirections := ⟨fun _ _ _ _ => rfl, fun _ => rfl⟩
theorem setFg_blind (f : Foreground → Foreground) : Blind (fun s => { s with fg := f s.fg }) :=
  ⟨fun _ _ _ _ => rfl, fun _ => rfl⟩
theorem setPort_blind (p : List Byte) : Blind (fun s => { s with port := p }) := ⟨fun _ _ _ _ => rfl, fun _ => rfl⟩
theorem setTurns_blind (ts : List Turn) : Blind (fun s => { s with turns := ts }) := ⟨fun _ _ _ _ => rfl, fun _ => rfl⟩
theorem setOpframe_blind (f : Frame) : Blind (fun s => { s with opframe := f }) := ⟨fun _ _ _ _ => rfl, fun _ => rfl⟩
theorem setOpcfg_blind (c : ConfigRecord) : Blind (fun s => { s with opcfg := c }) := ⟨fun _ _ _ _ => rfl, fun _ => rfl⟩
theorem setInited_blind (b : Bool) : Blind (fun s => { s with inited := b }) := ⟨fun _ _ _ _ => rfl, fun _ => rfl⟩
theorem setResult_blind (r : CallResult) : Blind (fun s => { s with result := r }) := ⟨fun _ _ _ _ => rfl, fun _ => rfl⟩

theorem resetPulse_blind : Blind resetPulse where
  swap tx rx e s := by
    unfold resetPulse
    change (if s.cfg.variant = 0x00#8 then _ else _) = _
    split <;> rfl
  par := resetPulse_par

/-! ### A cycle sees neither (R172) -/

theorem takeReply_blind : Blind takeReply where
  swap tx rx e s := by
    cases h : s.replies <;> simp [takeReply, State.swap, h]
  par := takeReply_par

theorem xchg_blind (b : Byte) : Blind (xchg b) where
  swap tx rx e s := by
    unfold xchg
    rw [takeReply_blind.swap]
    rfl
  par := xchg_par b

theorem teLength_blind : Blind teLength where
  swap tx rx e s := by
    unfold teLength
    rw [(xchg_blind _).swap]
    rfl
  par s := by simp [teLength]

theorem teFirst_blind : Blind teFirst where
  swap tx rx e s := by
    unfold teFirst
    rw [(xchg_blind _).swap]
    rfl
  par s := by simp [teFirst]

theorem tePayload_blind (k : Nat) : Blind (tePayload k) where
  swap tx rx e s := by
    unfold tePayload
    rw [(xchg_blind _).swap]
    rfl
  par := tePayload_par k

theorem tePayloads_blind (n k : Nat) : Blind (tePayloads n k) := by
  induction n generalizing k with
  | zero => exact ⟨fun _ _ _ _ => rfl, fun _ => rfl⟩
  | succ n ih => exact (ih (k + 1)).comp (tePayload_blind k)

theorem tePayloadPhase_blind : Blind tePayloadPhase where
  swap tx rx e s := (tePayloads_blind s.te.m 1).swap tx rx e s
  par s := (tePayloads_blind s.te.m 1).par s

theorem runTransfer_blind (out : Frame) : Blind (runTransfer out) := by
  have hstart : Blind (fun s => teRequest (teLatch out s)) := ⟨fun _ _ _ _ => rfl, fun _ => rfl⟩
  have hneg : Blind teNegotiate := ⟨fun _ _ _ _ => rfl, fun _ => rfl⟩
  have hrel : Blind teRelease := ⟨fun _ _ _ _ => rfl, fun _ => rfl⟩
  exact hrel.comp (tePayloadPhase_blind.comp (hneg.comp (teFirst_blind.comp (teLength_blind.comp hstart))))

/-! ### The queue operations -/

theorem Alike.map_setQueue {q : QueueSel} {v v' : Queue} (h : Alike C g s s') (hv : C.rel .after s.par v v') :
    Alike C (Function.update g q .after) (setQueue q v s) (setQueue q v' s') where
  same := by
    have e := congrArg (setQueue q v') h.same
    cases q <;> exact e
  queues q' := by
    by_cases hq : q' = q
    · subst hq; simpa using hv
    · rw [Function.update_of_ne hq, setQueue_par, setQueue_queue_other (Ne.symm hq), setQueue_queue_other (Ne.symm hq)]
      exact h.queues q'
  echo := by cases q <;> exact h.echo

theorem Alike.map_initQueue {q : QueueSel} (h : Alike C g s s') (hq : g q = .before) :
    Alike C (Function.update g q .after) (initQueue q s) (initQueue q s') :=
  h.map_setQueue (C.init (hq ▸ h.queues q))

theorem Alike.map_enqueue {q : QueueSel} (f : Frame) (h : Alike C g s s') (hq : g q = .before) :
    (enqueue q f s').1 = (enqueue q f s).1 ∧
      Alike C touched (enqueue q f s).2 (enqueue q f s').2 := by
  cases hf : s.qFull q with
  | true =>
    rw [enqueue_of_full q f s hf, enqueue_of_full q f s' ((h.qFull q).trans hf)]
    exact ⟨rfl, h.settle⟩
  | false =>
    rw [enqueue_of_room q f s hf, enqueue_of_room q f s' ((h.qFull q).trans hf), h.par]
    exact ⟨rfl, (h.map_setQueue (C.push f (hq ▸ h.queues q) ((qFull_eq_false_iff q s).1 hf))).settle⟩

theorem Alike.map_dequeue {q : QueueSel} (h : Alike C g s s') (hq : g q = .before) :
    (dequeue q s').1 = (dequeue q s).1 ∧
      Alike C (Function.update g q .after) (dequeue q s).2 (dequeue q s').2 := by
  cases he : s.qEmpty q with
  | true =>
    rw [dequeue_of_empty q s he, dequeue_of_empty q s' ((h.qEmpty q).trans he)]
    refine ⟨rfl, h.same, fun q' => ?_, h.echo⟩
    by_cases hne : q' = q
    · subst hne; simpa using C.settle (h.queues q')
    · rw [Function.update_of_ne hne]; exact h.queues q'
  | false =>
    have hr : C.rel .before s.par (s.queue q) (s'.queue q) := hq ▸ h.queues q
    rw [dequeue_of_some q s he, dequeue_of_some q s' ((h.qEmpty q).trans he), h.par,
      C.front hr ((qEmpty_eq_false_iff q s).1 he)]
    exact ⟨rfl, h.map_setQueue (C.pop hr)⟩

theorem Alike.map_peek {q : QueueSel} (h : Alike C g s s') (hq : g q = .before) : peek q s' = peek q s := by
  unfold peek
  rw [h.qEmpty]
  split
  · rfl
  · next he =>
    rw [h.par, C.front (hq ▸ h.queues q) ((qEmpty_eq_false_iff q s).1 (by simpa using he))]

/-! ### The scheduler -/

theorem Alike.map_rearm (h : Alike C g s s') : Alike C g (rearm s) (rearm s') := by
  unfold rearm
  rw [h.qFull, h.qEmpty]
  split
  · exact h.blind reqAssert_blind
  · exact h

theorem Alike.map_capacityEdge (h : Alike C g s s') : Alike C g (capacityEdge s) (capacityEdge s') := by
  unfold capacityEdge
  rw [h.qFull, h.irqMode]
  split
  · exact h.blind wakeDisarm_blind
  · exact h

theorem Alike.map_afterCycle (h : Alike C g s s') (hrx : g .rx = .before) :
    Alike C touched (afterCycle s) (afterCycle s') := by
  unfold afterCycle
  rw [h.te]
  obtain ⟨hok, hst⟩ := h.map_enqueue s.te.rx hrx
  rw [hok]
  split
  · split
    · exact hst.map_rearm.map_capacityEdge
    · exact (h.blind fatalHalt_blind).settle
  · exact h.settle.map_rearm.map_capacityEdge

theorem Alike.map_runSchedStep (h : Alike C untouched s s') : Alike C touched (runSchedStep s) (runSchedStep s') := by
  have hread := h.blind rdyRead_blind
  have hready : (rdyRead s').1 = (rdyRead s).1 := congrArg Lines.ready h.line
  unfold runSchedStep readyCheck transferStage
  rw [h.qFull, h.qEmpty, hready]
  split
  · exact h.settle
  · split
    · obtain ⟨hout, hst⟩ := hread.map_dequeue (q := .tx) rfl
      rw [hout, hread.par]
      exact (hst.blind (runTransfer_blind _)).map_afterCycle rfl
    · split
      · exact hread.settle
      · exact (hread.blind reqAssert_blind).settle

/-! ### The commands -/

theorem Alike.map_armIfIrq (h : Alike C g s s') : Alike C g (armIfIrq s) (armIfIrq s') := by
  unfold armIfIrq
  rw [h.irqMode]
  split
  · exact h.blind wakeArm_blind
  · exact h

theorem Alike.map_disarmIfIrq (h : Alike C g s s') : Alike C g (disarmIfIrq s) (disarmIfIrq s') := by
  unfold disarmIfIrq
  rw [h.irqMode]
  split
  · exact h.blind wakeDisarm_blind
  · exact h

theorem Alike.map_initQueues (h : Alike C untouched s s') :
    Alike C touched (initQueue .rx (initQueue .tx s)) (initQueue .rx (initQueue .tx s')) :=
  ((h.map_initQueue (q := .tx) rfl).map_initQueue (q := .rx) rfl).settle

/-- Storing one record as CFG in both states makes their debug-echo flags equal. -/
theorem Alike.map_setCfg (c : Cfg) (h : Alike C g s s') : Alike C g { s with cfg := c } { s' with cfg := c } where
  same := congrArg (fun t => { t with cfg := c }) h.same
  queues := h.queues
  echo := C.echo_refl _

theorem Alike.map_initBody (h : Alike C untouched s s') : Alike C touched (initBody s) (initBody s') := by
  unfold initBody
  rw [h.par, h.opcfg]
  split
  · have hstore : Alike C touched (initStore s) (initStore s') := by
      have hcfg := (h.map_setCfg (cfgOf s.opcfg)).blind (emit_blind (.busConfig s.opcfg.clkDiv))
      have e : initStore s' = initQueue .rx (initQueue .tx
          (emit (.busConfig s.opcfg.clkDiv) { s' with cfg := cfgOf s.opcfg })) := by rw [← h.opcfg]; rfl
      rw [e]
      exact hcfg.map_initQueues
    have hlines : Alike C touched (initLines (initStore s)) (initLines (initStore s')) := by
      unfold initLines
      rw [hstore.par]
      exact (((hstore.blind setDirections_blind).blind resetPulse_blind).blind reqDeassert_blind).blind (emit_blind _)
    exact (hlines.map_armIfIrq.blind (setInited_blind true)).blind (respondWith_blind _ _)
  · exact (h.blind (respondWith_blind _ _)).settle

theorem Alike.map_sendStep1 (h : Alike C untouched s s') : Alike C touched (sendStep1 s) (sendStep1 s') := by
  unfold sendStep1
  obtain ⟨hok, hst⟩ := h.map_enqueue (q := .tx) s.opframe rfl
  rw [h.par, h.opframe, hok]
  split
  · exact (h.blind (respondWith_blind _ _)).settle
  · split
    · exact hst.blind (setFg_blind fun fg => { fg with phase := .send2 })
    · exact (h.blind (respondWith_blind _ _)).settle

theorem Alike.map_sendStep2 (h : Alike C untouched s s') : Alike C touched (sendStep2 s) (sendStep2 s') := by
  unfold sendStep2
  rw [h.par, h.qFull]
  refine Alike.blind (respondWith_blind _ _) ?_
  split
  · exact (h.blind reqAssert_blind).settle
  · exact h.settle

theorem Alike.map_tryRxStep1 (h : Alike C untouched s s') : Alike C touched (tryRxStep1 s) (tryRxStep1 s') := by
  have htick : Alike C touched (receiveTick s) (receiveTick s') := by
    unfold receiveTick
    rw [h.irqMode]
    split
    · exact h.settle
    · exact h.map_runSchedStep
  rw [tryRxStep1_eq, tryRxStep1_eq, h.halted]
  split
  · exact htick
  · exact htick.blind (setFg_blind fun fg => { fg with phase := .tryRx2 })

theorem Alike.map_tryRxStep2 (h : Alike C untouched s s') : Alike C touched (tryRxStep2 s) (tryRxStep2 s') := by
  unfold tryRxStep2
  obtain ⟨hout, hst⟩ := h.map_dequeue (q := .rx) rfl
  rw [hout, h.qFull, h.fg]
  have htake := hst.settle.blind (setFg_blind fun _ => { s.fg with wasFull := s.qFull .rx })
  split
  · exact htake.blind (respondWith_blind _ _)
  · next f _ =>
    exact htake.blind
      (setFg_blind fun fg => { fg with res := { code := .ok, flag := true, frame := some f }, phase := .tryRx3 })

theorem Alike.map_reopen (h : Alike C g s s') : Alike C g (reopen s) (reopen s') := by
  have harm := h.blind wakeArm_blind
  unfold reopen
  rw [harm.qEmpty]
  split
  · exact harm
  · exact harm.blind reqAssert_blind

theorem Alike.map_tryRxStep3 (h : Alike C g s s') : Alike C g (tryRxStep3 s) (tryRxStep3 s') := by
  unfold tryRxStep3
  rw [h.fg, h.irqMode]
  refine Alike.blind (respondWith_blind _ _) ?_
  split
  · exact h.map_reopen
  · exact h

theorem Alike.map_peekBody (h : Alike C untouched s s') : Alike C touched (peekBody s) (peekBody s') := by
  unfold peekBody
  rw [h.map_peek rfl]
  split <;> exact (h.blind (respondWith_blind _ _)).settle

theorem Alike.map_flushBody (h : Alike C untouched s s') : Alike C touched (flushBody s) (flushBody s') := by
  unfold flushBody
  exact h.map_disarmIfIrq.map_initQueues.map_armIfIrq.blind (respondWith_blind _ _)

theorem Alike.map_fgMicroStep (h : Alike C untouched s s') : Alike C touched (fgMicroStep s) (fgMicroStep s') := by
  unfold fgMicroStep
  rw [h.fg]
  split
  · exact h.settle
  · exact h.map_sendStep2
  · exact h.map_tryRxStep2
  · exact h.map_tryRxStep3.settle

/-! ### Every operation -/

/-- Two outcomes that agree but for what `C` relates. -/
inductive OutcomesAlike (C : Comparison) : Outcome → Outcome → Prop where
  | next {t t' : State} (h : Alike C touched t t') : OutcomesAlike C (.next t) (.next t')
  | fault (r : Fault) : OutcomesAlike C (.fault r) (.fault r)

theorem Alike.map_accept {op : Byte} {body : State → State} (h : Alike C untouched s s')
    (hb : Alike C touched (body s) (body s')) : OutcomesAlike C (accept op body s) (accept op body s') := by
  unfold accept
  rw [h.halted, h.fg, h.inited]
  split
  · exact .fault _
  · split
    · exact .fault _
    · split
      · exact .next (h.blind (respondWith_blind _ _)).settle
      · split
        · exact .next (h.blind (respondWith_blind _ _)).settle
        · exact .next hb

/-- A query answers a flag the two states share. -/
theorem Alike.map_query {op : Byte} (flag : State → Bool) (h : Alike C untouched s s') (hf : flag s' = flag s) :
    OutcomesAlike C (accept op (fun t => respond op .ok (flag t) none t) s)
      (accept op (fun t => respond op .ok (flag t) none t) s') :=
  h.map_accept (by rw [hf]; exact h.settle.blind (respondWith_blind _ _))

theorem Alike.map_direct {op : State → CallResult × State} (h : Alike C untouched s s') (hr : (op s').1 = (op s).1)
    (ho : Alike C touched (op s).2 (op s').2) : OutcomesAlike C (direct op s) (direct op s') := by
  unfold direct
  rw [h.halted, hr]
  split
  · exact .fault _
  · exact .next (ho.blind (setResult_blind _))

theorem Alike.map_enqOperand (h : Alike C g s s') (q : QueueSel) : enqOperand q s' = enqOperand q s := by
  cases q
  · exact h.opframe
  · exact congrArg Engine.rx h.te

/-- The coprocessor's line steps see only the line and the wake mechanism. -/
theorem Alike.map_execRdyFall (h : Alike C untouched s s') : OutcomesAlike C (execRdyFall s) (execRdyFall s') := by
  have hfall : Blind (fun s => { s with
      line := { s.line with ready := true }
      wake := { s.wake with pending := s.wake.pending || s.wake.armed } }) := ⟨fun _ _ _ _ => rfl, fun _ => rfl⟩
  unfold execRdyFall
  rw [h.line]
  split
  · exact .next h.settle
  · have := h.settle.blind hfall
    rw [h.line] at this
    exact .next this

theorem Alike.map_execRdyRise (h : Alike C untouched s s') : OutcomesAlike C (execRdyRise s) (execRdyRise s') := by
  have hrise : Blind (fun s => { s with line := { s.line with ready := false } }) := ⟨fun _ _ _ _ => rfl, fun _ => rfl⟩
  unfold execRdyRise
  rw [h.line]
  split
  · have := h.settle.blind hrise
    rw [h.line] at this
    exact .next this
  · exact .next h.settle

theorem Alike.map_execIsrService (h : Alike C untouched s s') :
    OutcomesAlike C (execIsrService s) (execIsrService s') := by
  unfold execIsrService
  rw [h.halted, h.isrEnabled]
  split
  · exact .fault _
  · split
    · exact .next (h.blind irqEnter_blind).map_runSchedStep
    · exact .next h.settle

theorem Alike.map_exec (i : Instr) (h : Alike C untouched s s') : OutcomesAlike C (exec i s) (exec i s') := by
  cases i with
  | init c =>
    have hc := h.blind (setOpcfg_blind c)
    exact hc.map_accept hc.map_initBody
  | send f =>
    have hf := h.blind (setOpframe_blind f)
    exact hf.map_accept hf.map_sendStep1
  | tryReceive => exact h.map_accept h.map_tryRxStep1
  | peekReceive => exact h.map_accept h.map_peekBody
  | flush => exact h.map_accept h.map_flushBody
  | pinReset =>
    rw [exec, exec, execPinReset, execPinReset]
    exact h.map_accept ((h.settle.blind resetPulse_blind).blind (respondWith_blind _ _))
  | rxqFull => exact h.map_query (State.qFull .rx) (h.qFull .rx)
  | rxqEmpty => exact h.map_query (State.qEmpty .rx) (h.qEmpty .rx)
  | txqFull => exact h.map_query (State.qFull .tx) (h.qFull .tx)
  | txqEmpty => exact h.map_query (State.qEmpty .tx) (h.qEmpty .tx)
  | qInit q => exact h.map_direct rfl (h.map_initQueue rfl).settle
  | qEnq q =>
    obtain ⟨hok, hst⟩ := h.map_enqueue (q := q) (enqOperand q s) rfl
    rw [exec, exec, execQEnq, execQEnq]
    refine h.map_direct ?_ ?_ <;> simp only [h.map_enqOperand q, hok]
    exact hst
  | qDeq q =>
    obtain ⟨hout, hst⟩ := h.map_dequeue (q := q) rfl
    rw [exec, exec, execQDeq, execQDeq]
    exact h.map_direct (by simp only [hout]) hst.settle
  | qPeek q =>
    rw [exec, exec, execQPeek, execQPeek]
    exact h.map_direct (by simp only [h.map_peek rfl]) h.settle
  | qFull q =>
    rw [exec, exec, execQFull, execQFull]
    exact h.map_direct (by simp only [h.qFull]) h.settle
  | qEmpty q =>
    rw [exec, exec, execQEmpty, execQEmpty]
    exact h.map_direct (by simp only [h.qEmpty]) h.settle
  | reqAssert => exact h.map_direct rfl (h.blind reqAssert_blind).settle
  | reqDeassert => exact h.map_direct rfl (h.blind reqDeassert_blind).settle
  | rdyRead =>
    rw [exec, exec, execRdyRead, execRdyRead]
    exact h.map_direct (by simp only [rdyRead, h.line]) (h.blind rdyRead_blind).settle
  | wakeArm => exact h.map_direct rfl (h.blind wakeArm_blind).settle
  | wakeDisarm => exact h.map_direct rfl (h.blind wakeDisarm_blind).settle
  | resetPulse => exact h.map_direct rfl (h.blind resetPulse_blind).settle
  | transfer =>
    have hcyc := h.settle.blind (runTransfer_blind s.opframe)
    rw [exec, exec, execTransfer, execTransfer]
    refine h.map_direct ?_ ?_ <;> simp only [h.opframe, hcyc.te]
    exact hcyc
  | schedStep => exact h.map_direct rfl h.map_runSchedStep
  | rdyFall => exact h.map_execRdyFall
  | rdyRise => exact h.map_execRdyRise
  | isrService => exact h.map_execIsrService

/-! ### Every step -/

/-- The outcome of a move. -/
def Move.outcome : Move → Outcome
  | .run i s => exec i s
  | .settled o => o

theorem step_eq_outcome (s : State) : step s = (nextMove s).outcome := by
  unfold step
  cases nextMove s <;> rfl

theorem Alike.map_portMove (h : Alike C untouched s s') :
    OutcomesAlike C (portMove s).outcome (portMove s').outcome := by
  have hd : decode s'.par.maxLength = decode s.par.maxLength := by rw [h.par]
  unfold portMove
  rw [h.port, hd]
  cases s.port with
  | nil => exact .next h.settle
  | cons op tl =>
    dsimp only
    split
    · exact .next ((h.blind (setPort_blind tl)).blind (respondWith_blind _ _)).settle
    · cases decode s.par.maxLength (op :: tl) with
      | ok r => exact (h.blind (setPort_blind r.2)).map_exec r.1
      | error e => exact .next h.settle

theorem Alike.map_fgMove (h : Alike C untouched s s') : OutcomesAlike C (fgMove s).outcome (fgMove s').outcome := by
  unfold fgMove
  rw [h.halted, h.fg]
  split
  · exact .fault _
  · split
    · exact h.map_portMove
    · exact .next h.map_fgMicroStep

theorem Alike.map_opMove (code : Byte) (h : Alike C untouched s s') :
    OutcomesAlike C (opMove code s).outcome (opMove code s').outcome := by
  unfold opMove
  rw [h.par]
  cases decode s.par.maxLength [code] with
  | ok r => exact h.map_exec r.1
  | error e => exact .fault _

/-- Alike states step to alike outcomes. -/
theorem Alike.map_step (h : Alike C untouched s s') : OutcomesAlike C (step s) (step s') := by
  rw [step_eq_outcome, step_eq_outcome]
  unfold nextMove
  rw [h.turns]
  cases s.turns with
  | nil => exact h.map_fgMove
  | cons a ts =>
    cases a with
    | fg => exact (h.blind (setTurns_blind ts)).map_fgMove
    | op code => exact (h.blind (setTurns_blind ts)).map_opMove code

/-- Alike outcomes are equal under every view of the state that alike states share. -/
theorem OutcomesAlike.onNext_eq {view : State → State} {o o' : Outcome} (h : OutcomesAlike C o o')
    (hv : ∀ t t', Alike C touched t t' → view t = view t') : onNext view o = onNext view o' := by
  cases h with
  | next h => exact congrArg Host.Outcome.next (hv _ _ h)
  | fault r => rfl

end

/-! ### The debug-echo flag -/

/-- The queues are equal, the debug-echo flags are anything. -/
def echoApart : Comparison where
  rel _ _ q q' := q = q'
  echo _ _ := True
  settle h := h
  count h := by rw [h]
  front h _ := by rw [h]
  push f h _ := by rw [h]
  pop h := by rw [h]
  init h := by rw [h]
  echo_refl _ := trivial

theorem alike_of_withoutEcho {s s' : State} (h : s.withoutEcho = s'.withoutEcho) : Alike echoApart untouched s s' where
  same := by
    have e := congrArg (State.swap s'.txq s'.rxq s'.cfg.debugEcho) h.symm
    exact e
  queues q := by
    have e := congrArg (State.queue · q) h
    cases q <;> exact e
  echo := trivial

theorem Alike.withoutEcho {g : QueueSel → Stage} {s s' : State} (h : Alike echoApart g s s') :
    s.withoutEcho = s'.withoutEcho := by
  have e := congrArg State.withoutEcho h.same
  have htx : s.txq = s'.txq := h.queues .tx
  have hrx : s.rxq = s'.rxq := h.queues .rx
  rw [e, ← htx, ← hrx]
  rfl

/-- Settles O55: the step keeps the comparison that leaves only the debug-echo flag open. -/
theorem debugEchoHasNoEffect : Obligations.DebugEchoHasNoEffect := fun _ _ h =>
  (alike_of_withoutEcho h).map_step.onNext_eq fun _ _ => Alike.withoutEcho

/-! ### The live window -/

/-- The queues hold the same frames, wherever those stand; well-formed while they have not been operated on. -/
def windowApart : Comparison where
  rel g p q q' := q.contents p = q'.contents p ∧ match g with
    | .before => q.wf p ∧ q'.wf p
    | .after => True
  echo b b' := b = b'
  settle h := ⟨h.1, trivial⟩
  count {_ p q q'} h := by rw [← contents_length p q, ← contents_length p q', h.1]
  front {p q q'} h hn := by
    obtain ⟨hc, hwf, hwf'⟩ := h
    have hn' : q'.count ≠ 0 := by rwa [← contents_length p q', ← hc, contents_length]
    have e := contents_front p q' hwf' hn'
    rw [← hc, contents_front p q hwf hn] at e
    exact (Option.some.inj e).symm
  push {p q q'} f h hn := by
    obtain ⟨hc, hwf, hwf'⟩ := h
    have hn' : q'.count ≠ p.capacity := by rwa [← contents_length p q', ← hc, contents_length]
    exact ⟨by rw [contents_push p q f hwf hn, contents_push p q' f hwf' hn', hc], trivial⟩
  pop {p q q'} h := ⟨by rw [contents_pop, contents_pop, h.1], trivial⟩
  init {p q q'} _ := ⟨by rw [contents_of_empty _ _ rfl, contents_of_empty _ _ rfl], trivial⟩
  echo_refl _ := rfl

theorem alike_of_observed {s s' : State} (htx : s.txq.wf s.par) (hrx : s.rxq.wf s.par) (htx' : s'.txq.wf s'.par)
    (hrx' : s'.rxq.wf s'.par) (h : s.observed = s'.observed) : Alike windowApart untouched s s' := by
  have hp : s.par = s'.par := by
    have e := congrArg State.par h
    exact e
  rw [← hp] at htx' hrx'
  have hq (q : QueueSel) : (s.queue q).contents s.par = (s'.queue q).contents s.par := by
    have e : (s.queue q).contents s.par = (s'.queue q).contents s'.par := by
      have e := congrArg (fun t => (t.queue q).slots) h
      cases q <;> exact e
    rw [e, hp]
  refine ⟨?_, fun q => ⟨hq q, ?_⟩, ?_⟩
  · have e := congrArg (State.swap s'.txq s'.rxq s'.cfg.debugEcho) h.symm
    exact e
  · cases q
    · exact ⟨htx, htx'⟩
    · exact ⟨hrx, hrx'⟩
  · have e := congrArg (·.cfg.debugEcho) h
    exact e

theorem Alike.observed {g : QueueSel → Stage} {s s' : State} (h : Alike windowApart g s s') :
    s.observed = s'.observed := by
  have e := congrArg State.observed h.same
  have hq (q : QueueSel) : (s'.queue q).observed s.par = (s.queue q).observed s.par := by
    unfold Queue.observed
    rw [(h.queues q).1, windowApart.count (h.queues q)]
  have htx : s'.txq.observed s.par = s.txq.observed s.par := hq .tx
  have hrx : s'.rxq.observed s.par = s.rxq.observed s.par := hq .rx
  have hecho : s.cfg.debugEcho = s'.cfg.debugEcho := h.echo
  rw [e]
  unfold State.observed State.swap
  dsimp only
  rw [htx, hrx, ← hecho]

/-- Settles O56: the step keeps the comparison that leaves only the place of the live windows and the slots outside them
open. -/
theorem unusedSlotsCannotBeObserved : Obligations.UnusedSlotsCannotBeObserved := fun _ _ htx hrx htx' hrx' h =>
  (alike_of_observed htx hrx htx' hrx' h).map_step.onNext_eq fun _ _ => Alike.observed

end Sys2Proof.Machine

namespace Sys2Proof.Machine
open Sys2Proof

/-! ### What the queues carry -/

/-- A well-formed queue all of whose frames are as `P` says. -/
def Queue.Carries (p : Params) (P : Frame → Prop) (q : Queue) : Prop := q.wf p ∧ ∀ f ∈ q.contents p, P f

/-- What TXQ carries (R22). -/
def Sendable (p : Params) (f : Frame) : Prop := f.length.toNat ≤ p.maxLength

/-- What RXQ carries (R22, R169, R184). -/
def Received (p : Params) (f : Frame) : Prop :=
  payloadByte f 0 ≠ 0x00#8 ∧ f.length.toNat = min (payloadByte f 0).toNat p.maxLength

section
variable {p : Params} {P : Frame → Prop} {q : Queue}

theorem carries_push {f : Frame} (h : q.Carries p P) (hn : q.count ≠ p.capacity) (hs : f.shaped p.maxLength = true)
    (hf : P f) : (q.push p.capacity f).Carries p P := by
  refine ⟨wf_push p q f h.1 hn hs, fun g hg => ?_⟩
  rw [contents_push p q f h.1 hn] at hg
  rcases List.mem_append.1 hg with hg | hg
  · exact h.2 g hg
  · rwa [List.mem_singleton.1 hg]

theorem carries_pop (h : q.Carries p P) (hn : q.count ≠ 0) : (q.pop p.capacity).Carries p P :=
  ⟨wf_pop p q h.1 hn, fun g hg => h.2 g (List.mem_of_mem_tail (contents_pop p q ▸ hg))⟩

theorem carries_init (h : q.Carries p P) : Queue.Carries p P { q with head := 0, tail := 0, count := 0 } :=
  ⟨wf_init p q h.1, by simp [contents_of_empty]⟩

end

theorem carries_dequeue_tx {s : State} {P : Frame → Prop} (h : s.txq.Carries s.par P) :
    (dequeue .tx s).2.txq.Carries s.par P := by
  cases he : s.qEmpty .tx with
  | true => rwa [dequeue_of_empty .tx s he]
  | false =>
    rw [dequeue_of_some .tx s he]
    exact carries_pop h ((qEmpty_eq_false_iff .tx s).1 he)

/-! ### The invariant by modes -/

/-- The wake mechanism off: disarmed, and so with nothing pending (R50). -/
def Wake.off : Wake := { armed := false, pending := false }

/-- What the invariant says of the wake mechanism, RXQ's count and the command in flight, by the mode the block runs in. -/
inductive Mode (s : State) : Prop where
  /-- before INITIALIZE (R40, R270) -/
  | fresh (inited : s.inited = false) (phase : s.fg.phase = .idle) (wake : s.wake = Wake.off)
  /-- poll mode (R50, R283) -/
  | poll (inited : s.inited = true) (irq : s.cfg.irqMode = false) (wake : s.wake = Wake.off)
      (tick : s.rxq.count ≤ 1) (empty : s.fg.phase ≠ .tryRx2 → s.rxq.count = 0)
  /-- interrupt-driven mode, the wake mechanism armed exactly while RXQ has room (R50) -/
  | served (inited : s.inited = true) (irq : s.cfg.irqMode = true) (armed : s.wake.armed = !s.qFull .rx)
      (pending : s.wake.pending = true → s.wake.armed = true)
      (closed : ¬(s.fg.phase = .tryRx3 ∧ s.fg.wasFull = true))
  /-- interrupt-driven mode, between the dequeue and the re-arming of a TRY_RECEIVE that saw RXQ full (R205) -/
  | reopening (inited : s.inited = true) (irq : s.cfg.irqMode = true) (wake : s.wake = Wake.off)
      (room : s.qFull .rx = false) (phase : s.fg.phase = .tryRx3) (wasFull : s.fg.wasFull = true)

section
variable {s t : State}

theorem Inv.tx (h : Inv s) : s.txq.Carries s.par (Sendable s.par) := ⟨h.txqWf, h.txqLengths⟩

theorem Inv.rx (h : Inv s) : s.rxq.Carries s.par (Received s.par) := ⟨h.rxqWf, h.rxqFrames⟩

theorem Inv.capacity_pos (h : Inv s) : 0 < s.par.capacity := by
  obtain ⟨-, hh, -⟩ := h.rxqWf
  omega

/-- A disarmed wake mechanism has nothing pending. -/
theorem Inv.wake_off (h : Inv s) (ha : s.wake.armed = false) : s.wake = Wake.off := by
  have hp : s.wake.pending = false := by
    by_contra hp
    simp [h.pendingArmed (by simpa using hp)] at ha
  cases hw : s.wake
  simp_all [Wake.off]

theorem Inv.mode (h : Inv s) : Mode s := by
  cases hi : s.inited with
  | false => exact .fresh hi (h.fresh hi).1 (h.wake_off (h.fresh hi).2)
  | true =>
    cases hq : s.cfg.irqMode with
    | false => exact .poll hi hq (h.wake_off (h.pollQuiet hq)) (h.pollTick hi hq) (h.pollEmpty hi hq)
    | true =>
      by_cases hw : s.fg.phase = .tryRx3 ∧ s.fg.wasFull = true
      · obtain ⟨hroom, hoff⟩ := h.reopening hq hw.1 hw.2
        exact .reopening hi hq (h.wake_off hoff) hroom hw.1 hw.2
      · refine .served hi hq ?_ h.pendingArmed hw
        cases hf : s.qFull .rx with
        | false => simpa using h.roomArmed hi hq hf hw
        | true =>
          by_contra ha
          simp [h.armedRoom (by simpa using ha)] at hf

/-- The invariant from what the queues carry and the mode. -/
theorem Inv.of_mode (hp : s.par.valid = true) (htx : s.txq.Carries s.par (Sendable s.par))
    (hrx : s.rxq.Carries s.par (Received s.par)) (hh : s.halted = false) (hte : s.te.phase = .idle)
    (hd : s.turns.all Turn.ofAgent = true) (hm : Mode s) : Inv s where
  params := hp
  txqWf := htx.1
  rxqWf := hrx.1
  txqLengths := htx.2
  rxqFrames := hrx.2
  running := hh
  engineIdle := hte
  disciplined := hd
  pendingArmed := by
    cases hm with
    | served _ _ _ hpa => exact hpa
    | fresh _ _ hw | poll _ _ hw | reopening _ _ hw => simp [hw, Wake.off]
  pollQuiet := by
    cases hm with
    | served _ hq => simp [hq]
    | fresh _ _ hw | poll _ _ hw | reopening _ _ hw => simp [hw, Wake.off]
  armedRoom := by
    cases hm with
    | served _ _ ha => simp [ha]
    | fresh _ _ hw | poll _ _ hw | reopening _ _ hw => simp [hw, Wake.off]
  fresh := by
    cases hm with
    | fresh _ hp hw => simp [hp, hw, Wake.off]
    | poll hi | served hi | reopening hi => simp [hi]
  roomArmed := by
    cases hm with
    | fresh hi => simp [hi]
    | poll _ hq => simp [hq]
    | served _ _ ha => exact fun _ _ hr _ => by rw [ha, hr]; rfl
    | reopening _ _ _ _ hp hf => simp [hp, hf]
  reopening := by
    cases hm with
    | fresh _ hp => simp [hp]
    | poll _ hq => simp [hq]
    | served _ _ _ _ hc => exact fun _ hp hf => absurd ⟨hp, hf⟩ hc
    | reopening _ _ hw hr => simp [hr, hw, Wake.off]
  pollEmpty := by
    cases hm with
    | fresh hi => simp [hi]
    | poll _ _ _ _ he => exact fun _ _ => he
    | served _ hq | reopening _ hq => simp [hq]
  pollTick := by
    cases hm with
    | fresh hi => simp [hi]
    | poll _ _ _ ht => exact fun _ _ => ht
    | served _ hq | reopening _ hq => simp [hq]

/-! ### Updates the invariant does not see, or sees little of -/

/-- `t` is `s` but for what the invariant says nothing of, and the turns. -/
def SameControl (s t : State) : Prop :=
  t = { s with
    line := t.line, opframe := t.opframe, opcfg := t.opcfg, resp := t.resp, trace := t.trace, port := t.port
    turns := t.turns, result := t.result }

theorem Inv.of_sameControl (h : Inv s) (hs : SameControl s t) (hd : t.turns.all Turn.ofAgent = true) : Inv t := by
  unfold SameControl at hs
  rw [hs]
  exact { h with disciplined := hd }

/-- A response given while no command is in flight. -/
theorem Inv.respondWith_idle (h : Inv s) (hp : s.fg.phase = .idle) (op : Byte) (r : Response) :
    Inv (respondWith op r s) := by
  have hfg : { s.fg with phase := .idle } = s.fg := by rw [← hp]
  refine h.of_sameControl ?_ h.disciplined
  unfold respondWith
  rw [hfg]
  rfl

/-- The wake latch may be cleared at any time, and set while the wake mechanism is armed (R50). -/
theorem Inv.setPending (h : Inv s) (b : Bool) (hb : b = true → s.wake.armed = true) :
    Inv { s with wake := { s.wake with pending := b } } :=
  { h with pendingArmed := hb }

/-- The foreground may move on, but not out of or into the window in which RXQ is reopened (R205), and in poll mode with RXQ
empty or about to be read. -/
theorem Inv.setFg (h : Inv s) (fg : Foreground) (hi : s.inited = true)
    (hw : s.cfg.irqMode = true → ¬(s.fg.phase = .tryRx3 ∧ s.fg.wasFull = true))
    (hw' : s.cfg.irqMode = true → ¬(fg.phase = .tryRx3 ∧ fg.wasFull = true))
    (he : s.cfg.irqMode = false → fg.phase ≠ .tryRx2 → s.rxq.count = 0) : Inv { s with fg := fg } :=
  { h with
    fresh := fun hf => absurd hf (by simp [hi])
    roomArmed := fun _ hq hr _ => h.roomArmed hi hq hr (hw hq)
    reopening := fun hq hp hf => absurd ⟨hp, hf⟩ (hw' hq)
    pollEmpty := fun _ hq => he hq }

/-- A command in flight means the block is initialised. -/
theorem Inv.inited_of_inFlight (h : Inv s) (hp : s.fg.phase ≠ .idle) : s.inited = true := by
  by_contra hi
  exact hp (h.fresh (by simpa using hi)).1

/-! ### INITIALIZE and FLUSH start the queues afresh -/

/-- From `s` to `t` both queues are emptied, and nothing else the invariant speaks of changes but what the mode is read
from. -/
def Restarted (s t : State) : Prop :=
  t = { s with
    txq := { s.txq with head := 0, tail := 0, count := 0 }, rxq := { s.rxq with head := 0, tail := 0, count := 0 }
    cfg := t.cfg, line := t.line, wake := t.wake, inited := t.inited, fg := t.fg, resp := t.resp, trace := t.trace }

/-- Both queues emptied, no command in flight, and the wake mechanism armed or off as the mode says (R202, R211). -/
theorem Inv.restart (h : Inv s) (ht : Restarted s t) (hi : t.inited = true) (hp : t.fg.phase = .idle)
    (hirq : t.cfg.irqMode = true → t.wake.armed = true) (hpoll : t.cfg.irqMode = false → t.wake = Wake.off) :
    Inv t := by
  have hroom : t.qFull .rx = false := by
    rw [qFull_eq_false_iff, ht]
    exact h.capacity_pos.ne
  have hcount : t.rxq.count = 0 := by rw [ht]
  have hm : Mode t := by
    cases hq : t.cfg.irqMode with
    | true => exact .served hi hq (by rw [hirq hq, hroom]; rfl) (fun _ => hirq hq) (by simp [hp])
    | false => exact .poll hi hq (hpoll hq) (by simp [hcount]) (fun _ => hcount)
  unfold Restarted at ht
  rw [ht] at hm ⊢
  exact .of_mode h.params (carries_init h.tx) (carries_init h.rx) h.running h.engineIdle h.disciplined hm

theorem armIfIrq_eq (s : State) : armIfIrq s = { s with
    wake := if s.cfg.irqMode then
        { armed := true, pending := s.wake.pending || (s.par.armSamplesLevel && s.line.ready) } else s.wake
    trace := s.trace ++ (if s.cfg.irqMode then [.arm .falling] else []) } := by
  unfold armIfIrq
  split <;> simp [*, wakeArm, emit]

theorem disarmIfIrq_eq (s : State) : disarmIfIrq s = { s with
    wake := if s.cfg.irqMode then Wake.off else s.wake
    trace := s.trace ++ (if s.cfg.irqMode then [.disarm] else []) } := by
  unfold disarmIfIrq
  split <;> simp [*, wakeDisarm, emit, Wake.off]

theorem resetPulse_frame (s : State) :
    resetPulse s = { s with line := (resetPulse s).line, trace := (resetPulse s).trace } := by
  unfold resetPulse
  split <;> rfl

theorem Inv.initBody (h : Inv s) (hi : s.inited = false) (hp : s.fg.phase = .idle) : Inv (initBody s) := by
  have hoff : s.wake = Wake.off := h.wake_off (h.fresh hi).2
  unfold Machine.initBody
  split
  · rw [armIfIrq_eq]
    unfold initLines
    rw [resetPulse_frame]
    refine h.restart rfl rfl rfl (fun hq => ?_) (fun hq => ?_)
    · exact congrArg Wake.armed (if_pos hq)
    · exact (if_neg (by simpa using hq)).trans hoff
  · exact h.respondWith_idle hp _ _

theorem Inv.flushBody (h : Inv s) (hi : s.inited = true) : Inv (flushBody s) := by
  unfold Machine.flushBody
  rw [armIfIrq_eq, disarmIfIrq_eq]
  refine h.restart rfl hi rfl (fun hq => ?_) (fun hq => ?_)
  · exact congrArg Wake.armed (if_pos hq)
  · have hq : ¬s.cfg.irqMode = true := ne_true_of_eq_false hq
    exact (if_neg hq).trans ((if_neg hq).trans (h.wake_off (h.pollQuiet (by simpa using hq))))

/-! ### SEND -/

theorem Inv.sendStep1 (h : Inv s) (hi : s.inited = true) (hp : s.fg.phase = .idle)
    (hs : s.opframe.shaped s.par.maxLength = true) : Inv (sendStep1 s) := by
  unfold Machine.sendStep1
  split
  · exact h.respondWith_idle hp _ _
  · next hl =>
    cases hf : s.qFull .tx with
    | true => rw [enqueue_of_full _ _ _ hf]; exact h.respondWith_idle hp _ _
    | false =>
      rw [enqueue_of_room _ _ _ hf]
      have hn : s.txq.count ≠ s.par.capacity := (qFull_eq_false_iff .tx s).1 hf
      have htx := carries_push h.tx hn hs (by unfold Sendable; omega)
      have hq : Inv { s with txq := s.txq.push s.par.capacity s.opframe } :=
        { h with txqWf := htx.1, txqLengths := htx.2 }
      exact hq.setFg { s.fg with phase := .send2 } hi (by simp [hp]) (by simp)
        fun hq _ => h.pollEmpty hi hq (by simp [hp])

theorem Inv.sendStep2 (h : Inv s) (hp : s.fg.phase = .send2) : Inv (sendStep2 s) := by
  have hi := h.inited_of_inFlight (by simp [hp])
  have hidle := h.setFg { s.fg with phase := .idle } hi (by simp [hp]) (by simp)
    fun hq _ => h.pollEmpty hi hq (by simp [hp])
  unfold Machine.sendStep2
  split <;> exact hidle.of_sameControl rfl h.disciplined

/-! ### The scheduler step -/

/-- What the cycle of a scheduler step hands over with a nonzero declared length is a frame RXQ may carry (R169, R184). -/
theorem runTransfer_shaped_received (out : Frame) (s : State) (hd : (runTransfer out s).te.d ≠ 0x00#8) :
    (runTransfer out s).te.rx.shaped s.par.maxLength = true ∧ Received s.par (runTransfer out s).te.rx := by
  have hdecl := runTransfer_declared out s
  obtain ⟨-, -, -, hD, -, hlen, -, -, hpay⟩ := runTransfer_registers out s
  refine ⟨by simp [Frame.shaped, hpay], ?_, ?_⟩
  · rw [hdecl, ← hD]; exact hd
  · rw [hdecl, hlen, BitVec.toNat_ofNat, Nat.mod_eq_of_lt]
    have := (declared s).isLt
    omega

/-- What a scheduler step does to what the invariant speaks of. -/
structure SchedEffect (s t : State) : Prop where
  txq : t.txq = s.txq ∨ t.txq = (dequeue .tx s).2.txq
  rxq : t.rxq = s.rxq ∨ ∃ f, f.shaped s.par.maxLength = true ∧ Received s.par f ∧ t.rxq = s.rxq.push s.par.capacity f
  te : t.te.phase = s.te.phase ∨ t.te.phase = .idle
  wake : t.wake = if s.cfg.irqMode = true ∧ t.rxq.count = s.par.capacity then Wake.off else s.wake

theorem runSchedStep_effect (h : s.txq.wf s.par) (hroom : s.qFull .rx = false) : SchedEffect s (runSchedStep s) := by
  have hn : s.rxq.count ≠ s.par.capacity := (qFull_eq_false_iff .rx s).1 hroom
  cases hr : s.line.ready with
  | false =>
    rw [runSchedStep_of_notReady s hroom hr]
    split <;> exact ⟨.inl rfl, .inl rfl, .inl rfl, by simp [hn]⟩
  | true =>
    rw [runSchedStep_cycle s _ h hn hr rfl]
    refine ⟨.inr rfl, ?_, .inr (runTransfer_registers _ _).1, rfl⟩
    by_cases hd : (runTransfer ((s.contents .tx).headD (Frame.zero s.par.maxLength))
        { s with trace := s.trace ++ [.read .rdy true] }).te.d = 0x00#8
    · exact .inl (if_pos hd)
    · obtain ⟨hs, hf⟩ := runTransfer_shaped_received _ _ hd
      exact .inr ⟨_, hs, hf, if_neg hd⟩

theorem SchedEffect.tx {P : Frame → Prop} (he : SchedEffect s t) (h : s.txq.Carries s.par P) :
    t.txq.Carries s.par P := by
  rcases he.txq with e | e <;> rw [e]
  · exact h
  · exact carries_dequeue_tx h

theorem SchedEffect.rx (he : SchedEffect s t) (h : s.rxq.Carries s.par (Received s.par))
    (hroom : s.qFull .rx = false) : t.rxq.Carries s.par (Received s.par) := by
  rcases he.rxq with e | ⟨f, hs, hf, e⟩ <;> rw [e]
  · exact h
  · exact carries_push h ((qFull_eq_false_iff .rx s).1 hroom) hs hf

theorem SchedEffect.count_le (he : SchedEffect s t) : t.rxq.count ≤ s.rxq.count + 1 := by
  rcases he.rxq with e | ⟨f, -, -, e⟩ <;> simp [e, Queue.push]

/-- The scheduler step of ISR_SERVICE: RXQ has room while the wake mechanism is armed, and Capacity edge disarms it when the
step has filled RXQ (R50, R185). -/
theorem Inv.runSchedStep (h : Inv s) (ha : s.wake.armed = true) : Inv (runSchedStep s) := by
  have hroom := h.armedRoom ha
  have he := runSchedStep_effect h.txqWf hroom
  have hi : s.inited = true := by
    by_contra hi
    simp [(h.fresh (by simpa using hi)).2] at ha
  have hq : s.cfg.irqMode = true := by
    by_contra hq
    simp [h.pollQuiet (by simpa using hq)] at ha
  have hclosed : ¬(s.fg.phase = .tryRx3 ∧ s.fg.wasFull = true) := fun ⟨hp, hf⟩ => by
    simp [(h.reopening hq hp hf).2] at ha
  have hte : (Machine.runSchedStep s).te.phase = .idle := he.te.elim (·.trans h.engineIdle) id
  refine .of_mode (by simpa using h.params) ?_ ?_ (by simpa using h.running) hte (by simpa using h.disciplined) ?_
  · simpa using he.tx h.tx
  · simpa using he.rx h.rx hroom
  · refine .served (by simpa using hi) (by simpa using hq) ?_ ?_ (by simpa using hclosed)
    · by_cases hc : (Machine.runSchedStep s).rxq.count = s.par.capacity
      · simp [he.wake, hq, hc, State.qFull, Queue.full, Wake.off]
      · simp [he.wake, hc, State.qFull, Queue.full, ha]
    · rw [he.wake]
      split
      · simp [Wake.off]
      · exact fun _ => ha

/-! ### TRY_RECEIVE -/

/-- The tick in poll mode adds at most one frame to an empty RXQ (R283). -/
theorem Inv.tryRxStep1 (h : Inv s) (hi : s.inited = true) (hp : s.fg.phase = .idle) : Inv (tryRxStep1 s) := by
  rw [tryRxStep1_eq, if_neg (by simp [h.running])]
  unfold receiveTick
  cases hq : s.cfg.irqMode with
  | true => exact h.setFg { s.fg with phase := .tryRx2 } hi (by simp [hp]) (by simp) (by simp)
  | false =>
    have hempty : s.rxq.count = 0 := h.pollEmpty hi hq (by simp [hp])
    have hroom : s.qFull .rx = false :=
      (qFull_eq_false_iff .rx s).2 (by rw [queue_rx, hempty]; exact h.capacity_pos.ne)
    have he := runSchedStep_effect h.txqWf hroom
    have hte : (Machine.runSchedStep s).te.phase = .idle := he.te.elim (·.trans h.engineIdle) id
    have hcount := he.count_le
    refine .of_mode (by simpa using h.params) ?_ ?_ (by simpa using h.running) hte (by simpa using h.disciplined) ?_
    · simpa using he.tx h.tx
    · simpa using he.rx h.rx hroom
    · refine .poll (by simpa using hi) (by simpa using hq) ?_ (by simpa [hempty] using hcount) (by simp)
      simp [he.wake, hq, h.wake_off (h.pollQuiet hq)]

theorem Inv.tryRxStep2 (h : Inv s) (hp : s.fg.phase = .tryRx2) : Inv (tryRxStep2 s) := by
  have hi := h.inited_of_inFlight (by simp [hp])
  unfold Machine.tryRxStep2
  cases hem : s.qEmpty .rx with
  | true =>
    have h0 : s.rxq.count = 0 := (qEmpty_iff .rx s).1 hem
    have hidle := h.setFg { s.fg with wasFull := s.qFull .rx, phase := .idle } hi (by simp [hp]) (by simp) fun _ _ => h0
    rw [dequeue_of_empty .rx s hem]
    exact hidle.of_sameControl rfl h.disciplined
  | false =>
    have h0 : s.rxq.count ≠ 0 := (qEmpty_eq_false_iff .rx s).1 hem
    obtain ⟨-, -, -, hle, -, -⟩ := h.rxqWf
    have hroom : s.rxq.count - 1 ≠ s.par.capacity := by omega
    rw [dequeue_of_some .rx s hem]
    refine .of_mode h.params h.tx (carries_pop h.rx h0) h.running h.engineIdle h.disciplined ?_
    cases h.mode with
    | fresh hf => simp [hi] at hf
    | poll _ hq hw ht => exact .poll hi hq hw (by simp [Queue.pop]; omega) (by simp [Queue.pop]; omega)
    | reopening _ _ _ _ hp3 => simp [hp] at hp3
    | served _ hq ha hpa =>
      cases hf : s.qFull .rx with
      | true =>
        refine .reopening hi hq ?_ ?_ rfl rfl
        · exact h.wake_off (by rw [ha, hf]; rfl)
        · simpa [State.qFull, Queue.full, Queue.pop] using hroom
      | false =>
        refine .served hi hq ?_ hpa (by simp)
        have harm : s.wake.armed = true := by rw [ha, hf]; rfl
        simpa [State.qFull, Queue.full, Queue.pop, harm] using hroom

theorem Inv.tryRxStep3 (h : Inv s) (hp : s.fg.phase = .tryRx3) : Inv (tryRxStep3 s) := by
  have hi := h.inited_of_inFlight (by simp [hp])
  unfold Machine.tryRxStep3
  split
  · next hw =>
    obtain ⟨hq, hf⟩ : s.cfg.irqMode = true ∧ s.fg.wasFull = true := by simpa using hw
    have hroom := (h.reopening hq hp hf).1
    rw [reopen_eq]
    refine .of_mode h.params h.tx h.rx h.running h.engineIdle h.disciplined ?_
    exact .served hi hq (congrArg (! ·) hroom).symm (fun _ => rfl) (by simp)
  · next hw =>
    have hidle := h.setFg { s.fg with phase := .idle } hi (by simpa [hp] using hw) (by simp)
      fun hq _ => h.pollEmpty hi hq (by simp [hp])
    exact hidle.of_sameControl rfl h.disciplined

theorem Inv.fgMicroStep (h : Inv s) : Inv (fgMicroStep s) := by
  cases hp : s.fg.phase with
  | idle => simpa [Machine.fgMicroStep, hp] using h
  | send2 => rw [fgMicroStep_of_send2 hp]; exact h.sendStep2 hp
  | tryRx2 => rw [fgMicroStep_of_tryRx2 hp]; exact h.tryRxStep2 hp
  | tryRx3 => rw [fgMicroStep_of_tryRx3 hp]; exact h.tryRxStep3 hp

/-! ### Every operation of an agent -/

/-- A command keeps the invariant when its body does in the state the prologue lets it run in. -/
theorem Inv.accept {op : Byte} {body : State → State} (h : Inv s) (he : accept op body s = .next t)
    (hb : s.fg.phase = .idle → (op ≠ 0x00#8 ↔ s.inited = true) → Inv (body s)) : Inv t := by
  obtain ⟨-, hp, ⟨rfl, -⟩ | ⟨rfl, -⟩ | ⟨rfl, hi⟩⟩ := accept_next he
  · exact h.respondWith_idle hp _ _
  · exact h.respondWith_idle hp _ _
  · exact hb hp hi

theorem Inv.exec_command {i : Instr} (h : Inv s) (hc : i.isCommand = true) (hwf : i.wellFormed s.par.maxLength = true)
    (he : exec i s = .next t) : Inv t := by
  cases i with
  | init c =>
    have hs : Inv { s with opcfg := c } := h.of_sameControl rfl h.disciplined
    exact hs.accept he fun hp hi => hs.initBody (by simpa using hi) hp
  | send f =>
    have hs : Inv { s with opframe := f } := h.of_sameControl rfl h.disciplined
    exact hs.accept he fun hp hi => hs.sendStep1 (hi.1 (by decide)) hp hwf
  | tryReceive => exact h.accept he fun hp hi => h.tryRxStep1 (hi.1 (by decide)) hp
  | peekReceive =>
    refine h.accept he fun hp _ => ?_
    unfold peekBody
    split <;> exact h.respondWith_idle hp _ _
  | rxqFull | rxqEmpty | txqFull | txqEmpty => exact h.accept he fun hp _ => h.respondWith_idle hp _ _
  | flush => exact h.accept he fun _ hi => h.flushBody (hi.1 (by decide))
  | pinReset =>
    have hs : Inv (resetPulse s) := h.of_sameControl (by unfold resetPulse; split <;> rfl) (by simpa using h.disciplined)
    rw [exec, execPinReset] at he
    exact h.accept he fun hp _ => hs.respondWith_idle (by simpa using hp) _ _
  | _ => cases hc

/-- The operation of an agent's turn is one of the three event steps (R99). -/
theorem decode_agentTurn {code : Byte} (maxLength : Nat) (h : (Turn.op code).ofAgent = true) :
    ∃ i : Instr, i.isEvent = true ∧ i.isCommand = false ∧ decode maxLength [code] = .ok (i, []) := by
  have hc : (code = 0x40#8 ∨ code = 0x41#8) ∨ code = 0x42#8 := by simpa [Turn.ofAgent] using h
  rcases hc with (rfl | rfl) | rfl
  · exact ⟨.rdyFall, rfl, rfl, rfl⟩
  · exact ⟨.rdyRise, rfl, rfl, rfl⟩
  · exact ⟨.isrService, rfl, rfl, rfl⟩

theorem Inv.exec_event {i : Instr} (h : Inv s) (hv : i.isEvent = true) (he : exec i s = .next t) : Inv t := by
  cases i with
  | rdyFall =>
    rw [exec, execRdyFall] at he
    split at he <;> cases he
    · exact h
    · have hs := h.setPending (s.wake.pending || s.wake.armed)
        (by simpa [or_imp] using h.pendingArmed)
      exact hs.of_sameControl rfl h.disciplined
  | rdyRise =>
    rw [exec, execRdyRise] at he
    split at he <;> cases he
    · exact h.of_sameControl rfl h.disciplined
    · exact h
  | isrService =>
    rw [exec, execIsrService, if_neg (by simp [h.running])] at he
    split at he <;> cases he
    · next hen =>
      obtain ⟨⟨⟨-, -⟩, ha⟩, -⟩ :
          ((s.inited = true ∧ s.halted = false) ∧ s.wake.armed = true) ∧ s.wake.pending = true := by
        simpa [State.isrEnabled] using hen
      exact (h.setPending false (by simp)).runSchedStep ha
    · exact h
  | _ => cases hv

/-! ### Every step -/

/-- The turn just taken is dropped, and what is left still names agents only. -/
theorem Inv.takeTurn (h : Inv s) : Inv { s with turns := s.turns.tail } :=
  h.of_sameControl rfl (List.all_eq_true.2 fun a ha => List.all_eq_true.1 h.disciplined a (List.mem_of_mem_tail ha))

/-- Settles O49: by what the step can have been, with the mode of the block carried through each. -/
theorem stepKeepsTheInvariant : Obligations.StepKeepsTheInvariant := by
  intro s t h hs
  have hport (p : List Byte) : Inv { s with port := p, turns := s.turns.tail } :=
    h.takeTurn.of_sameControl rfl h.takeTurn.disciplined
  rcases step_next hs with ⟨-, -, rfl⟩ | ⟨-, ⟨-, hp⟩, op, tl, -, -, rfl⟩ | ⟨-, -, i, rest, hd, he, op, tl, hpo, h9⟩ |
    ⟨-, -, -, rfl⟩ | ⟨code, ts, i, rest, ht, hd, he⟩
  · exact h.takeTurn
  · exact (hport tl).respondWith_idle hp _ _
  · rw [hpo] at hd
    exact (hport rest).exec_command (decode_isCommand hd h9) (decode_ok hd).2 he
  · exact h.takeTurn.fgMicroStep
  · have hdis := h.disciplined
    rw [ht, List.all_cons, Bool.and_eq_true] at hdis
    obtain ⟨j, hj, -, hdj⟩ := decode_agentTurn s.par.maxLength hdis.1
    rw [hdj] at hd
    cases hd
    have hturn : Inv { s with turns := ts } := h.of_sameControl rfl hdis.2
    exact hturn.exec_event hj he

/-- A command the foreground runs, or an event step, has a next state in a block that is not halted and accepts one. -/
theorem exec_next_of_running {i : Instr} (hh : s.halted = false) (hc : i.isCommand = true → s.fg.phase = .idle) :
    ∃ t, exec i s = .next t := by
  rcases exec_outcomes i s with ht | ⟨-, hhalt⟩ | ⟨-, hp, hi⟩
  · exact ht
  · simp [hh] at hhalt
  · exact absurd (hc hi) hp

/-- From a state that meets the invariant there is a next step, whoever's turn it is. -/
theorem Inv.exists_step (h : Inv s) : ∃ t, step s = .next t := by
  rcases turn_cases s with hfg | ⟨code, ts, ht⟩
  · by_cases hp : s.fg.phase = .idle
    · rw [step_of_accepting hfg ⟨h.running, hp⟩]
      rcases portMove_cases { s with turns := s.turns.tail } with e | ⟨op, tl, -, -, e⟩ | ⟨i, rest, op, tl, -, -, -, e⟩ <;>
        rw [e]
      · exact ⟨_, rfl⟩
      · exact ⟨_, rfl⟩
      · exact exec_next_of_running h.running fun _ => hp
    · exact ⟨_, step_of_inFlight hfg h.running hp⟩
  · have hdis := h.disciplined
    rw [ht, List.all_cons, Bool.and_eq_true] at hdis
    obtain ⟨j, -, hj, hdj⟩ := decode_agentTurn s.par.maxLength hdis.1
    rw [step_of_op ht, hdj]
    exact exec_next_of_running h.running fun hc => by simp [hj] at hc

end

/-- Settles O50: there is a next step, and it keeps the invariant, which says the block is not halted. -/
theorem invariantStatesAlwaysStep : Obligations.InvariantStatesAlwaysStep := fun s h =>
  let ⟨t, ht⟩ := h.exists_step
  ⟨t, ht, (stepKeepsTheInvariant s t h ht).running⟩

end Sys2Proof.Machine

namespace Sys2Proof

/-! ### Encoding and decoding -/

section
variable {maxLength : Nat} {op : Byte} {tl rest : List Byte} {i : Instr}

/-- What follows the code of INITIALIZE is its configuration record, or is too short for one (R96, R97). -/
theorem decode_initCode (maxLength : Nat) (tl : List Byte) :
    decode maxLength (0x00#8 :: tl) =
      (decodeConfig tl).elim (.error (.truncated 0x00#8)) fun p => .ok (.init p.1, p.2) := by
  have hunit : decode maxLength (0x00#8 :: tl) = decodeCommand maxLength 0x00#8 tl := rfl
  rw [hunit, decodeCommand, show opFunction 0x00#8 = 0 from rfl]
  cases decodeConfig tl <;> rfl

/-- What follows the code of SEND is a frame of this build's size, or is too short for one (R91, R96). -/
theorem decode_sendCode (maxLength : Nat) (tl : List Byte) :
    decode maxLength (0x01#8 :: tl) =
      (decodeFrame maxLength tl).elim (.error (.truncated 0x01#8)) fun p => .ok (.send p.1, p.2) := by
  have hunit : decode maxLength (0x01#8 :: tl) = decodeCommand maxLength 0x01#8 tl := rfl
  rw [hunit, decodeCommand, show opFunction 0x01#8 = 1 from rfl]
  cases decodeFrame maxLength tl <;> rfl

/-- The decoder reads the bytes of a well-formed operation back, operand included, and leaves what follows them. -/
theorem decode_encode (rest : List Byte) (h : i.wellFormed maxLength = true) :
    decode maxLength (encode i ++ rest) = .ok (i, rest) := by
  cases i with
  | init c =>
    rw [encode, List.cons_append, Instr.code, decode_initCode, Instr.operandBytes, decodeConfig_bytes]
    rfl
  | send f =>
    rw [encode, List.cons_append, Instr.code, decode_sendCode, Instr.operandBytes, decodeFrame_bytes _ _ _ h]
    rfl
  | qInit q | qEnq q | qDeq q | qPeek q | qFull q | qEmpty q => cases q <;> rfl
  | _ => rfl

/-- What the decoder consumes after the code is the operand, and no more. -/
theorem decode_operandBytes (h : decode maxLength (op :: tl) = .ok (i, rest)) : i.operandBytes ++ rest = tl := by
  obtain ⟨rfl, hwf⟩ := decode_ok h
  by_cases hb : i.operandBytes = []
  · have hall := decode_encode tl hwf
    rw [encode, hb, List.singleton_append, h] at hall
    cases hall
    simp [hb]
  · cases i with
    | init c =>
      rw [Instr.code, decode_initCode] at h
      cases hc : decodeConfig tl <;> rw [hc] at h <;> cases h
      exact decodeConfig_eq_some hc
    | send f =>
      rw [Instr.code, decode_sendCode] at h
      cases hf : decodeFrame maxLength tl <;> rw [hf] at h <;> cases h
      exact (decodeFrame_eq_some hf).2
    | _ => exact absurd rfl hb

end

/-- Settles O1, by the operand forms: a configuration record, a frame, none. -/
theorem encodedOperationDecodesBack : Obligations.EncodedOperationDecodesBack := fun _ _ rest h => decode_encode rest h

/-- Settles O2: the first byte is the code, and what is consumed after it is the operand. -/
theorem decodedBytesAreTheEncoding : Obligations.DecodedBytesAreTheEncoding := by
  intro maxLength bs i rest h
  cases bs with
  | nil => cases h
  | cons op tl =>
    obtain ⟨hcode, hwf⟩ := decode_ok h
    exact ⟨hwf, by rw [encode, List.cons_append, hcode, decode_operandBytes h]⟩

/-! ### Undefined codes -/

section
variable (maxLength : Nat) (op : Byte) (tl : List Byte)

theorem decodeCommand_undefined_iff :
    decodeCommand maxLength op tl = .error (.undefinedCode op) ↔ 9 < opFunction op := by
  unfold decodeCommand
  split
  case h_1 | h_2 => split <;> simp_all
  all_goals simp_all
  omega

theorem decodeQueueOp_undefined_iff : decodeQueueOp op tl = .error (.undefinedCode op) ↔ 5 < op.toNat % 8 := by
  unfold decodeQueueOp
  split <;> simp_all
  omega

theorem decodeLineOp_undefined_iff : decodeLineOp op tl = .error (.undefinedCode op) ↔ 5 < opFunction op := by
  unfold decodeLineOp
  split <;> simp_all
  omega

theorem decodeEngineOp_undefined_iff : decodeEngineOp op tl = .error (.undefinedCode op) ↔ 1 < opFunction op := by
  unfold decodeEngineOp
  split <;> simp_all
  omega

theorem decodeEvent_undefined_iff : decodeEvent op tl = .error (.undefinedCode op) ↔ 2 < opFunction op := by
  unfold decodeEvent
  split <;> simp_all
  omega

end

/-- Settles O3: each unit has its own bound on the function, and units 5 to 15 have no function (R95, R98, R99). -/
theorem onlyTableCodesAreDefined : Obligations.OnlyTableCodesAreDefined := by
  intro maxLength op tl
  unfold decode
  dsimp only
  split
  case h_1 hu => rw [decodeCommand_undefined_iff]; simp [opUnit, opFunction] at *; omega
  case h_2 hu => rw [decodeQueueOp_undefined_iff]; simp [opUnit] at *; omega
  case h_3 hu => rw [decodeLineOp_undefined_iff]; simp [opUnit, opFunction] at *; omega
  case h_4 hu => rw [decodeEngineOp_undefined_iff]; simp [opUnit, opFunction] at *; omega
  case h_5 hu => rw [decodeEvent_undefined_iff]; simp [opUnit, opFunction] at *; omega
  case h_6 => simp [opUnit] at *; omega

/-- Settles O4: the decoder run on each byte string. -/
theorem specWordsDecode : Obligations.SpecWordsDecode := by
  unfold Obligations.SpecWordsDecode
  decide

/-! ### Operands not all there -/

theorem decodeConfig_of_short {tl : List Byte} (h : tl.length < 9) : decodeConfig tl = none := by
  unfold decodeConfig
  split
  · simp at h
    omega
  · rfl

theorem decodeFrame_of_short {maxLength : Nat} {tl : List Byte} (h : tl.length < maxLength + 3) :
    decodeFrame maxLength tl = none := by
  unfold decodeFrame
  split
  · exact if_neg (by simp at h; omega)
  · rfl

/-- A code whose operand bytes are not all there is truncated (R96). -/
theorem decode_of_short {maxLength : Nat} {op : Byte} {tl : List Byte} (h : tl.length < operandLength maxLength op) :
    decode maxLength (op :: tl) = .error (.truncated op) := by
  unfold operandLength at h
  split at h
  · next h0 => rw [h0, decode_initCode, decodeConfig_of_short h]; rfl
  · split at h
    · next h1 => rw [h1, decode_sendCode, decodeFrame_of_short h]; rfl
    · cases h

end Sys2Proof

namespace Sys2Proof.Machine
open Sys2Proof

/-! ### What the foreground takes from the port -/

section
variable {s : State} {op : Byte} {tl rest : List Byte} {i : Instr}

/-- The command at the port is run, and its bytes are taken: its code is at most 0x09 (R102). -/
theorem portMove_of_command (hd : decode s.par.maxLength s.port = .ok (i, rest)) (hi : i.isCommand = true) :
    portMove s = .run i { s with port := rest } := by
  cases hp : s.port with
  | nil => rw [hp] at hd; cases hd
  | cons op tl =>
    rw [hp] at hd
    have h9 : ¬ 0x09 < op.toNat := by
      rw [← (decode_ok hd).1]
      exact Nat.not_lt.2 ((code_le_nine_iff i).2 hi)
    simp [portMove, hp, h9, hd]

theorem portMove_of_undefined (hp : s.port = op :: tl) (h9 : 0x09 < op.toNat) :
    portMove s = .settled (.next (responded op .errUndefOp false none { s with port := tl })) := by
  simp only [portMove, hp, if_pos h9, reject_eq_responded]

theorem portMove_of_empty (hp : s.port = []) : portMove s = .settled (.next s) := by
  simp only [portMove, hp]

theorem portMove_of_short (hp : s.port = op :: tl) (h9 : op.toNat ≤ 0x09)
    (hl : tl.length < operandLength s.par.maxLength op) : portMove s = .settled (.next s) := by
  simp only [portMove, hp, if_neg (Nat.not_lt.2 h9), decode_of_short hl]

end

/-- Settles O5: a command's code is at most 0x09, so the port runs what it decodes. -/
theorem stepRunsTheCommandAtThePort : Obligations.StepRunsTheCommandAtThePort := by
  intro s i rest ha ht hd hi
  have hrun : portMove { s with turns := s.turns.tail } = .run i { s with port := rest, turns := s.turns.tail } :=
    portMove_of_command hd hi
  rw [step_of_accepting ht ha, hrun]

/-- Settles O6: a turn's code runs what it decodes to. -/
theorem stepRunsTheOperationOfATurn : Obligations.StepRunsTheOperationOfATurn := by
  intro s code ts i rest ht hd
  rw [step_of_op ht, hd]

/-- Settles O8: the port's first test is on the code, and a halted block has no foreground step. -/
theorem undefinedCodeAtThePortIsRefused : Obligations.UndefinedCodeAtThePortIsRefused := by
  intro s op tl ht hp h9
  refine ⟨fun ha => ?_, step_of_halted ht⟩
  have hrefused : portMove { s with turns := s.turns.tail } =
      .settled (.next (responded op .errUndefOp false none { s with port := tl, turns := s.turns.tail })) :=
    portMove_of_undefined hp h9
  rw [step_of_accepting ht ha, hrefused]

/-- Settles O9: there is no byte, or the code is truncated. -/
theorem portWaitsForAWholeCommand : Obligations.PortWaitsForAWholeCommand := by
  intro s ha ht hport
  have hwait : portMove { s with turns := s.turns.tail } = .settled (.next { s with turns := s.turns.tail }) := by
    rcases hport with hp | ⟨op, tl, hp, h9, hl⟩
    · exact portMove_of_empty hp
    · exact portMove_of_short hp h9 hl
  rw [step_of_accepting ht ha, hwait]

end Sys2Proof.Machine

namespace Sys2Proof.Machine
open Sys2Proof

/-! ### A queue against the bounded list of its contents (R30, R120, R128) -/

section
variable {q : QueueSel} {s : State}

@[simp] theorem setQueue_setQueue (q : QueueSel) (v w : Queue) (s : State) :
    setQueue q v (setQueue q w s) = setQueue q v s := by
  cases q <;> rfl

@[simp] theorem contents_setQueue (q : QueueSel) (v : Queue) (s : State) :
    (setQueue q v s).contents q = v.contents s.par := by
  rw [State.contents, setQueue_queue_same, setQueue_par]

theorem contents_length_lt_iff (h : (s.queue q).wf s.par) :
    (s.contents q).length < s.par.capacity ↔ s.qFull q = false := by
  obtain ⟨-, -, -, hcount, -, -⟩ := h
  rw [qFull_eq_false_iff, State.contents, contents_length]
  omega

/-- An enqueue succeeds exactly when the list of the contents is below its bound (R122). -/
theorem enqueue_fst (q : QueueSel) (f : Frame) (s : State) (h : (s.queue q).wf s.par) :
    (enqueue q f s).1 = decide ((s.contents q).length < s.par.capacity) := by
  cases hf : s.qFull q with
  | true => simp [enqueue_of_full q f s hf, contents_length_lt_iff h, hf]
  | false => simp [enqueue_of_room q f s hf, contents_length_lt_iff h, hf]

/-- An enqueue appends at the end of the contents while they are below the bound (R122). -/
theorem enqueue_contents (q : QueueSel) (f : Frame) (s : State) (h : (s.queue q).wf s.par) :
    (enqueue q f s).2.contents q =
      if (s.contents q).length < s.par.capacity then s.contents q ++ [f] else s.contents q := by
  cases hf : s.qFull q with
  | true => simp [enqueue_of_full q f s hf, contents_length_lt_iff h, hf]
  | false =>
    rw [if_pos ((contents_length_lt_iff h).2 hf), enqueue_of_room q f s hf, contents_setQueue]
    exact contents_push _ _ f h ((qFull_eq_false_iff q s).1 hf)

theorem enqueue_par (q : QueueSel) (f : Frame) (s : State) : (enqueue q f s).2.par = s.par := by
  rw [enqueue_frame, setQueue_par]

theorem dequeue_par (q : QueueSel) (s : State) : (dequeue q s).2.par = s.par := by
  rw [dequeue_frame, setQueue_par]

theorem enqueue_wf (q : QueueSel) (f : Frame) (s : State) (h : (s.queue q).wf s.par)
    (hs : f.shaped s.par.maxLength = true) :
    ((enqueue q f s).2.queue q).wf (enqueue q f s).2.par := by
  cases hf : s.qFull q with
  | true => rw [enqueue_of_full q f s hf]; exact h
  | false =>
    rw [enqueue_of_room q f s hf, setQueue_queue_same, setQueue_par]
    exact wf_push _ _ f h ((qFull_eq_false_iff q s).1 hf) hs

/-- Two changes of one queue and nothing else, one after the other, are such a change. -/
theorem setQueue_frame_trans {t u : State} (ht : t = setQueue q (t.queue q) s) (hu : u = setQueue q (u.queue q) t) :
    u = setQueue q (u.queue q) s :=
  hu.trans (by rw [ht, setQueue_setQueue])

/-- Any sequence of uses of a queue touches that queue and nothing else (R120). -/
theorem runQueue_frame (q : QueueSel) (acts : List QueueAction) (s : State) :
    (runQueue q acts s).2 = setQueue q ((runQueue q acts s).2.queue q) s := by
  induction acts generalizing s with
  | nil => cases q <;> rfl
  | cons a as ih =>
    cases a with
    | enq f => exact setQueue_frame_trans (enqueue_frame q f s) (ih _)
    | deq => exact setQueue_frame_trans (dequeue_frame q s) (ih _)

theorem runQueue_par (q : QueueSel) (acts : List QueueAction) (s : State) :
    (runQueue q acts s).2.par = s.par := by
  rw [runQueue_frame, setQueue_par]

/-- The contents are a simulation: each use of the queue answers and moves as the same use of the list of its contents, and
keeps the invariant (R26) that the next one needs. -/
theorem runQueue_simulates (acts : List QueueAction) (h : (s.queue q).wf s.par)
    (hacts : ∀ f, QueueAction.enq f ∈ acts → f.shaped s.par.maxLength = true) :
    ((runQueue q acts s).1, (runQueue q acts s).2.contents q) =
        runBoundedList s.par.capacity acts (s.contents q) ∧
      ((runQueue q acts s).2.queue q).wf (runQueue q acts s).2.par := by
  induction acts generalizing s with
  | nil => exact ⟨rfl, h⟩
  | cons a as ih =>
    have hrest : ∀ f, QueueAction.enq f ∈ as → f.shaped s.par.maxLength = true :=
      fun f hf => hacts f (List.mem_cons_of_mem _ hf)
    cases a with
    | enq f =>
      have hwf := enqueue_wf q f s h (hacts f List.mem_cons_self)
      obtain ⟨hlist, hend⟩ := ih hwf (by rwa [enqueue_par])
      rw [enqueue_par, enqueue_contents q f s h] at hlist
      exact ⟨by simp only [runQueue, runBoundedList, enqueue_fst q f s h, ← hlist], hend⟩
    | deq =>
      obtain ⟨hlist, hend⟩ := ih (dequeue_wf q s h) (by rwa [dequeue_par])
      rw [dequeue_par, dequeue_contents] at hlist
      exact ⟨by simp only [runQueue, runBoundedList, dequeue_fst q s h, ← hlist], hend⟩

end

/-- Settles O17: the contents simulate the bounded list use by use, and every use keeps the frame and the invariant. -/
theorem queueIsABoundedFifo : Obligations.QueueIsABoundedFifo := by
  intro q acts s h hacts
  obtain ⟨hlist, hwf⟩ := runQueue_simulates acts h hacts
  rw [runQueue_par] at hwf
  exact ⟨congrArg Prod.fst hlist, congrArg Prod.snd hlist, runQueue_frame q acts s, hwf⟩

/-! ### The queue operations called on their own (R121 to R126) -/

/-- Settles O13: full or not, with the contents and the invariant after a push. -/
theorem qEnqAppendsOrRejects : Obligations.QEnqAppendsOrRejects := by
  refine ⟨rfl, rfl, fun q s hh hwf => ⟨fun hfull => ?_, fun hroom => ?_⟩⟩
  · rw [exec, execQEnq, direct_runs _ s hh, enqueue_of_full _ _ s ((qFull_iff q s).2 hfull)]
    rfl
  · refine ⟨enqOperand q s, (s.queue q).push s.par.capacity (enqOperand q s), rfl, rfl,
      contents_push _ _ _ hwf hroom, wf_push _ _ _ hwf hroom, ?_⟩
    rw [exec, execQEnq, direct_runs _ s hh, enqueue_of_room _ _ s ((qFull_eq_false_iff q s).2 hroom)]
    rfl

/-- Settles O14: empty or not, with the contents and the invariant after a pop. -/
theorem qDeqTakesTheOldest : Obligations.QDeqTakesTheOldest := by
  refine ⟨rfl, rfl, fun q s hh hwf => ⟨fun hempty => ?_, fun hsome => ?_⟩⟩
  · rw [exec, execQDeq, direct_runs _ s hh, dequeue_of_empty q s ((qEmpty_iff q s).2 hempty)]
    rfl
  · refine ⟨(s.queue q).front s.par.maxLength, (s.queue q).pop s.par.capacity, rfl,
      contents_eq_front_cons _ _ hwf hsome, wf_pop _ _ hwf hsome, ?_⟩
    rw [exec, execQDeq, direct_runs _ s hh, dequeue_of_some q s ((qEmpty_eq_false_iff q s).2 hsome)]
    rfl

/-- Settles O12: a queue of count 0 has no contents. -/
theorem qInitEmptiesTheQueue : Obligations.QInitEmptiesTheQueue := by
  refine ⟨rfl, rfl, fun q s hh => ⟨_, rfl, contents_of_empty _ _ rfl, ?_⟩⟩
  rw [exec, execQInit, direct_runs _ s hh]
  rfl

/-- Q_PEEK and Q_DEQ answer the same frame, the first of the contents (R123, R124). -/
theorem peek_eq_head? (q : QueueSel) (s : State) (h : (s.queue q).wf s.par) : peek q s = (s.contents q).head? := by
  rw [← dequeue_fst q s h, peek, dequeue, apply_ite Prod.fst]

/-- Settles O15: the ok bit says that there is a first frame. -/
theorem qPeekReadsTheOldest : Obligations.QPeekReadsTheOldest := by
  refine ⟨rfl, rfl, fun q s hh hwf => ?_⟩
  have hbit : (s.contents q).head?.isSome = decide (s.contents q ≠ []) := by
    cases s.contents q <;> simp
  rw [exec, execQPeek, direct_runs _ s hh, peek_eq_head? q s hwf, hbit]
  rfl

theorem qFull_eq_decide (q : QueueSel) (s : State) : s.qFull q = decide ((s.queue q).count = s.par.capacity) := by
  rw [Bool.eq_iff_iff, qFull_iff, decide_eq_true_iff]

theorem qEmpty_eq_decide (q : QueueSel) (s : State) : s.qEmpty q = decide ((s.queue q).count = 0) := by
  rw [Bool.eq_iff_iff, qEmpty_iff, decide_eq_true_iff]

/-- Settles O16: both flags are tests of `count` (R27). -/
theorem queueFlagsAreQueries : Obligations.QueueFlagsAreQueries := by
  refine ⟨rfl, rfl, rfl, rfl, fun q s hh => ⟨?_, ?_⟩⟩
  · rw [exec, execQFull, direct_runs _ s hh, qFull_eq_decide]
    rfl
  · rw [exec, execQEmpty, direct_runs _ s hh, qEmpty_eq_decide]
    rfl

/-- Settles O18: the enqueue leaves the one-element list of the frame, and the dequeue takes its first. -/
theorem enqueueThenDequeueReturnsTheFrame : Obligations.EnqueueThenDequeueReturnsTheFrame := by
  intro q f s hwf hnil hs
  have hroom : (s.contents q).length < s.par.capacity := by
    obtain ⟨-, hhead, -⟩ := hwf
    rw [hnil]
    exact Nat.zero_lt_of_lt hhead
  have hone : (enqueue q f s).2.contents q = [f] := by
    rw [enqueue_contents q f s hwf, if_pos hroom, hnil, List.nil_append]
  refine ⟨?_, ?_, ?_⟩
  · rw [enqueue_fst q f s hwf, decide_eq_true hroom]
  · rw [dequeue_fst q _ (enqueue_wf q f s hwf hs), hone, List.head?_cons]
  · rw [dequeue_contents, hone, List.tail_cons]

end Sys2Proof.Machine

namespace Sys2Proof.Machine
open Sys2Proof

/-! ### The line and wake operations called on their own (R142 to R147) -/

/-- A direct call of an operation that hands nothing back clears the answer of the call before it (log entry 13). -/
theorem direct_noResult_runs (op : State → State) (s : State) (h : s.halted = false) :
    direct (noResult op) s = .next { op s with result := CallResult.none } :=
  direct_runs (noResult op) s h

theorem resetPulse_of_variant_zero (s : State) (h : s.cfg.variant = 0x00#8) :
    resetPulse s = { s with
      line := { s.line with rst := some true }
      trace := s.trace ++ [.write .rst true, .write .rst false, .write .rst true] } := by
  simp [resetPulse, h, emit]

theorem resetPulse_of_variant_ne_zero (s : State) (h : s.cfg.variant ≠ 0x00#8) :
    resetPulse s = { s with
      line := { s.line with rst := some false }
      trace := s.trace ++ [.write .rst true, .delay s.par.tResetLong, .write .rst false] } := by
  simp [resetPulse, h, emit]

/-- Settles O19: the level before the call is not read. -/
theorem reqAssertDrivesTheLine : Obligations.ReqAssertDrivesTheLine := by
  refine ⟨rfl, fun s hh => ?_⟩
  rw [exec, execReqAssert, direct_noResult_runs _ s hh]
  rfl

/-- Settles O20: the level before the call is not read. -/
theorem reqDeassertDrivesTheLine : Obligations.ReqDeassertDrivesTheLine := by
  refine ⟨rfl, fun s hh => ?_⟩
  rw [exec, execReqDeassert, direct_noResult_runs _ s hh]
  rfl

/-- Settles O21: the answer and the event are one sample of the level. -/
theorem rdyReadSamplesTheLine : Obligations.RdyReadSamplesTheLine := by
  refine ⟨rfl, fun s hh => ?_⟩
  rw [exec, execRdyRead, direct_runs _ s hh]
  rfl

/-- Settles O22: a wake is pending afterwards when it was before, or when the level is sampled and the line is ready. -/
theorem wakeArmEnables : Obligations.WakeArmEnables := by
  refine ⟨rfl, fun s hh => ?_⟩
  rw [exec, execWakeArm, direct_noResult_runs _ s hh]
  rfl

/-- Settles O23: neither part of the mechanism is read before it is cleared. -/
theorem wakeDisarmDrops : Obligations.WakeDisarmDrops := by
  refine ⟨rfl, fun s hh => ?_⟩
  rw [exec, execWakeDisarm, direct_noResult_runs _ s hh]
  rfl

/-- Settles O24: variant 0 or not. -/
theorem resetPulseFollowsTheVariant : Obligations.ResetPulseFollowsTheVariant := by
  refine ⟨rfl, fun s hh => ?_⟩
  rw [exec, execResetPulse, direct_noResult_runs _ s hh]
  refine ⟨fun hzero => ?_, fun hone => ?_⟩
  · rw [resetPulse_of_variant_zero s hzero]
  · have hne : s.cfg.variant ≠ 0x00#8 := by rw [hone]; decide
    rw [resetPulse_of_variant_ne_zero s hne]

end Sys2Proof.Machine

namespace Sys2Proof.Machine
open Sys2Proof

/-! ### A cycle always completes -/

/-- The further byte pairs of a cycle are at most MAX_LENGTH, whatever is declared on either side (R166). -/
theorem runTransfer_m_le (out : Frame) (s : State) : (runTransfer out s).te.m ≤ s.par.maxLength := by
  obtain ⟨-, -, -, -, hm, -⟩ := runTransfer_registers out s
  rw [hm]
  exact cycleLength_le _ _ _

/-- Settles O26: the cycle is total, what it consumes and records is counted by its own m, and the rest is its frame. -/
theorem transferAlwaysCompletes : Obligations.TransferAlwaysCompletes := by
  intro s hh
  obtain ⟨hidle, hreq, -⟩ := runTransfer_registers s.opframe s
  obtain ⟨hreplies, hdrawn, pairs, hlength, htrace⟩ := runTransfer_consumes s.opframe s
  have honly : runTransfer s.opframe s = _ := runTransfer_onlyCycle s.opframe s
  refine ⟨_, pairs, exec_transfer_runs s hh, runTransfer_m_le s.opframe s, hlength, hidle, ?_⟩
  rw [hreq, hreplies, hdrawn, htrace] at honly
  generalize runTransfer s.opframe s = t at honly ⊢
  rw [honly]

end Sys2Proof.Machine

namespace Sys2Proof.Machine
open Sys2Proof

/-! ### The scheduler step called on its own (R181 to R185) -/

theorem exec_schedStep_runs (s : State) (h : s.halted = false) :
    exec .schedStep s = .next { runSchedStep s with result := CallResult.none } :=
  direct_noResult_runs runSchedStep s h

/-- Settles O27: the Guard is passed only with room in RXQ. -/
theorem guardHoldsBackTheTransfer : Obligations.GuardHoldsBackTheTransfer := by
  intro s hh hfull
  rw [exec_schedStep_runs s hh, runSchedStep_of_full s ((qFull_iff .rx s).2 hfull)]

/-- Settles O28: the line is read, and TXQ is empty or not. -/
theorem notReadyMeansNoTransfer : Obligations.NotReadyMeansNoTransfer := by
  intro s hh hroom hr
  rw [exec_schedStep_runs s hh, runSchedStep_of_notReady s ((qFull_eq_false_iff .rx s).2 hroom) hr]
  by_cases hempty : s.txq.count = 0
  · rw [if_pos hempty, if_pos ((qEmpty_iff .tx s).2 hempty)]
    rfl
  · have hsome : s.qEmpty .tx = false := (qEmpty_eq_false_iff .tx s).2 hempty
    rw [if_neg hempty, if_neg (by simp [hsome])]
    simp [reqAssert, emit]

/-- TXQ after a dequeue carries the rest of its contents. -/
theorem dequeue_txq_contents (s : State) : (dequeue .tx s).2.txq.contents s.par = (s.contents .tx).tail := by
  rw [← dequeue_contents, State.contents, dequeue_par]
  rfl

theorem dequeue_txq_wf (s : State) (h : s.txq.wf s.par) : (dequeue .tx s).2.txq.wf s.par := by
  have hwf := dequeue_wf .tx s h
  rwa [dequeue_par] at hwf

theorem rxqAfter_contents (s c : State) (h : s.rxq.wf s.par) (hroom : s.rxq.count ≠ s.par.capacity) :
    (rxqAfter s c).contents s.par = s.contents .rx ++ (if c.te.d = 0x00#8 then [] else [c.te.rx]) := by
  unfold rxqAfter
  split
  · exact (List.append_nil _).symm
  · exact contents_push _ _ _ h hroom

theorem rxqAfter_wf (s c : State) (h : s.rxq.wf s.par) (hroom : s.rxq.count ≠ s.par.capacity)
    (hs : c.te.d ≠ 0x00#8 → c.te.rx.shaped s.par.maxLength = true) : (rxqAfter s c).wf s.par := by
  unfold rxqAfter
  split
  · exact h
  · next hd => exact wf_push _ _ _ h hroom (hs hd)

/-- Settles O29: the step is one update over what the cycle leaves; the queues are those after a dequeue of TXQ and the store
of a received frame in RXQ. -/
theorem readyMeansOneTransfer : Obligations.ReadyMeansOneTransfer := by
  intro s hh htx hrx hroom hr
  have hrun := exec_schedStep_runs s hh
  rw [runSchedStep_cycle s _ htx hroom hr rfl] at hrun
  refine ⟨_, _, hrun, rfl, rfl, dequeue_txq_wf s htx, ?_, dequeue_txq_contents s, ?_, rfl⟩
  · exact rxqAfter_wf s _ hrx hroom fun hd => (runTransfer_shaped_received _ _ hd).1
  · exact rxqAfter_contents s _ hrx hroom

/-! ### Draining TXQ into a silent coprocessor (R192) -/

/-- The block can run `n` scheduler steps with room in RXQ, the line ready, and zero replies at hand for every cycle. -/
structure Draining (n : Nat) (s : State) : Prop where
  running : s.halted = false
  txqWf : s.txq.wf s.par
  lengths : ∀ f ∈ s.contents .tx, f.length.toNat ≤ s.par.maxLength
  room : s.rxq.count ≠ s.par.capacity
  ready : s.line.ready = true
  replies : ∃ spare, s.replies = List.replicate (n * (s.par.maxLength + 2)) 0x00#8 ++ spare

/-- The frame a scheduler step sends, NULL_FRAME included, is a whole frame of a legal length (R22, R24). -/
theorem outgoing_shaped (s : State) (h : s.txq.wf s.par) (hl : ∀ f ∈ s.contents .tx, f.length.toNat ≤ s.par.maxLength) :
    ((s.contents .tx).headD (Frame.zero s.par.maxLength)).shaped s.par.maxLength = true ∧
      ((s.contents .tx).headD (Frame.zero s.par.maxLength)).length.toNat ≤ s.par.maxLength := by
  by_cases h0 : s.txq.count = 0
  · have hnil : s.contents .tx = [] := contents_of_empty _ _ h0
    simp [hnil, Frame.zero, Frame.shaped]
  · have hcons : s.contents .tx = _ := contents_eq_front_cons s.par s.txq h h0
    rw [hcons] at hl ⊢
    exact ⟨front_shaped _ _ h, hl _ List.mem_cons_self⟩

theorem drainEvents_succ (maxLength n : Nat) (fs : List Frame) :
    drainEvents maxLength (n + 1) fs = drainEvents maxLength 1 fs ++ drainEvents maxLength n fs.tail := by
  simp [drainEvents]

/-- A cycle in which the coprocessor answers zeros declares nothing and leaves the rest of the zeros at hand (R173). -/
theorem runTransfer_silent (out : Frame) (s : State) (k : Nat) (spare : List Byte)
    (hs : out.shaped s.par.maxLength = true) (hl : out.length.toNat ≤ s.par.maxLength)
    (hr : s.replies = List.replicate (k + (s.par.maxLength + 2)) 0x00#8 ++ spare) :
    (runTransfer out s).te.d = 0x00#8 ∧
      (∃ spare', (runTransfer out s).replies = List.replicate k 0x00#8 ++ spare') ∧
      (runTransfer out s).trace = s.trace ++
        cycleEvents (cycleSent out (cycleLength s.par.maxLength out.length.toNat 0))
          (List.replicate (2 + cycleLength s.par.maxLength out.length.toNat 0) 0x00#8) := by
  have hle := cycleLength_le s.par.maxLength out.length.toNat 0
  have hcons : s.replies = 0x00#8 :: 0x00#8 :: (List.replicate (k + s.par.maxLength) 0x00#8 ++ spare) := hr
  have hD : declared s = 0x00#8 := nextReply_cons (show (takeReply s).replies = _ by rw [takeReply_replies, hcons]; rfl)
  obtain ⟨-, -, -, hd, hm, -⟩ := runTransfer_registers out s
  obtain ⟨hrest, -, -⟩ := runTransfer_consumes out s
  rw [hD] at hd hm
  refine ⟨hd, ⟨List.replicate (s.par.maxLength - (runTransfer out s).te.m) 0x00#8 ++ spare, ?_⟩, ?_⟩
  · have hmle := runTransfer_m_le out s
    rw [hrest, hr, List.drop_append_of_le_length (by simp; omega), List.drop_replicate, ← List.append_assoc,
      List.replicate_append_replicate]
    congr 2
    omega
  · rw [runTransfer_trace out s _ _ _ hs hl hcons (by simp; omega), List.take_append_of_le_length (by simp; omega),
      List.take_replicate, Nat.min_eq_left (by simp; omega), Nat.add_comm 2]
    rfl

/-- A scheduler step with a ready coprocessor that answers zeros sends the oldest frame of TXQ, and stores nothing. -/
theorem runSchedStep_silent (s : State) (k : Nat) (spare : List Byte) (h : s.txq.wf s.par)
    (hl : ∀ f ∈ s.contents .tx, f.length.toNat ≤ s.par.maxLength) (hroom : s.rxq.count ≠ s.par.capacity)
    (hr : s.line.ready = true) (hreplies : s.replies = List.replicate (k + (s.par.maxLength + 2)) 0x00#8 ++ spare) :
    (runSchedStep s).rxq = s.rxq ∧ (runSchedStep s).txq = (dequeue .tx s).2.txq ∧
      (∃ spare', (runSchedStep s).replies = List.replicate k 0x00#8 ++ spare') ∧
      (runSchedStep s).trace = s.trace ++ drainEvents s.par.maxLength 1 (s.contents .tx) := by
  obtain ⟨hshaped, hlength⟩ := outgoing_shaped s h hl
  obtain ⟨hd, hrest, htrace⟩ := runTransfer_silent _ { s with trace := s.trace ++ [.read .rdy true] } k spare
    hshaped hlength hreplies
  have hcount : (dequeue .tx s).2.txq.count = 0 ↔ (s.contents .tx).tail = [] := by
    rw [← dequeue_txq_contents, ← List.length_eq_zero_iff, contents_length]
  have hrxq : rxqAfter s _ = s.rxq := if_pos hd
  rw [runSchedStep_cycle s _ h hroom hr rfl]
  refine ⟨hrxq, rfl, hrest, ?_⟩
  simp only [hrxq, htrace, drainEvents]
  simp [hroom, hcount]

/-- One step of a drain leaves the oldest frame of TXQ sent, and a drain of one step fewer. -/
theorem Draining.schedStep {n : Nat} {s : State} (h : Draining (n + 1) s) :
    Draining n (runSchedStep s) ∧ (runSchedStep s).rxq = s.rxq ∧
      (runSchedStep s).contents .tx = (s.contents .tx).tail ∧
      (runSchedStep s).trace = s.trace ++ drainEvents s.par.maxLength 1 (s.contents .tx) := by
  obtain ⟨spare, hreplies⟩ := h.replies
  rw [Nat.succ_mul] at hreplies
  obtain ⟨hrxq, htxq, hrest, htrace⟩ := runSchedStep_silent s _ spare h.txqWf h.lengths h.room h.ready hreplies
  have hcontents : (runSchedStep s).contents .tx = (s.contents .tx).tail := by
    rw [State.contents, queue_tx, htxq, runSchedStep_par, dequeue_txq_contents]
  refine ⟨?_, hrxq, hcontents, htrace⟩
  exact
    { running := (runSchedStep_halted s).trans h.running
      txqWf := by rw [runSchedStep_par, htxq]; exact dequeue_txq_wf s h.txqWf
      lengths := by
        rw [hcontents, runSchedStep_par]
        exact fun f hf => h.lengths f (List.mem_of_mem_tail hf)
      room := by rw [hrxq, runSchedStep_par]; exact h.room
      ready := (runSchedStep_ready s).trans h.ready
      replies := by rw [runSchedStep_par]; exact hrest }

theorem Draining.step {n : Nat} {s : State} {ts : List Turn} (h : Draining (n + 1) s)
    (hturns : s.turns = .op 0x31#8 :: ts) :
    ∃ t, step s = .next t ∧ Draining n t ∧ t.turns = ts ∧ t.par = s.par ∧ t.rxq = s.rxq ∧
      t.contents .tx = (s.contents .tx).tail ∧
      t.trace = s.trace ++ drainEvents s.par.maxLength 1 (s.contents .tx) := by
  have hrun : Machine.step s = exec .schedStep { s with turns := ts } := step_of_op hturns
  have hturn : Draining (n + 1) { s with turns := ts } := { h with }
  obtain ⟨hnext, hrxq, htxq, htrace⟩ := hturn.schedStep
  exact ⟨_, hrun.trans (exec_schedStep_runs _ h.running), { hnext with }, runSchedStep_turns _, runSchedStep_par _, hrxq,
    htxq, htrace⟩

theorem Draining.run {n : Nat} {s : State} (h : Draining n s) (hturns : s.turns = List.replicate n (.op 0x31#8)) :
    ∃ t, Host.Core.run Sys2Proof.core n s = .next t ∧ t.contents .tx = (s.contents .tx).drop n ∧ t.rxq = s.rxq ∧
      t.line.ready = true ∧ t.turns = [] ∧
      t.trace = s.trace ++ drainEvents s.par.maxLength n (s.contents .tx) := by
  induction n generalizing s with
  | zero => exact ⟨s, rfl, rfl, rfl, h.ready, hturns, (List.append_nil _).symm⟩
  | succ n ih =>
    obtain ⟨u, hstep, hu, hturnsU, hpar, hrxq, htxq, htrace⟩ := h.step (hturns.trans List.replicate_succ)
    obtain ⟨t, hrun, htxq', hrxq', hready, hturns', htrace'⟩ := ih hu hturnsU
    refine ⟨t, (core_run_succ hstep).trans hrun, ?_, hrxq'.trans hrxq, hready, hturns', ?_⟩
    · rw [htxq', htxq, List.drop_tail]
    · rw [htrace', htrace, hpar, htxq, List.append_assoc, ← drainEvents_succ]

/-- Settles O30: the premises give a drain of `n` steps, one step of which leaves a drain of the rest. -/
theorem schedulerDrainsTheTransmitQueue : Obligations.SchedulerDrainsTheTransmitQueue := by
  intro n s spare hh _ htx _ hl hroom hr hturns hreplies
  exact Draining.run ⟨hh, htx, hl, hroom, hr, spare, hreplies⟩ hturns

end Sys2Proof.Machine

namespace Sys2Proof.Machine
open Sys2Proof

/-! ### The event steps (R186 to R188) -/

/-- ISR_SERVICE enabled, as the four conditions of R186. -/
theorem isrEnabled_iff (s : State) :
    s.isrEnabled = true ↔ s.inited = true ∧ s.halted = false ∧ s.wake.armed = true ∧ s.wake.pending = true := by
  simp [State.isrEnabled, and_assoc]

theorem execIsrService_of_enabled {s : State} (h : s.isrEnabled = true) :
    execIsrService s = .next (runSchedStep (irqEnter s)) := by
  obtain ⟨-, hh, -, -⟩ := (isrEnabled_iff s).1 h
  rw [execIsrService, if_neg (by simp [hh]), if_pos h, irqReturn_eq]

theorem execIsrService_of_disabled {s : State} (hh : s.halted = false) (h : s.isrEnabled = false) :
    execIsrService s = .next s := by
  rw [execIsrService, if_neg (by simp [hh]), if_neg (by simp [h])]

/-- Everything ISR_SERVICE can answer with a next state: the turn passes, or a scheduler step in the interrupt context. -/
theorem execIsrService_next {s t : State} (h : execIsrService s = .next t) :
    t = s ∨ t = runSchedStep (irqEnter s) := by
  unfold execIsrService at h
  split at h
  · cases h
  · split at h <;> cases h
    · exact .inr rfl
    · exact .inl rfl

/-- Settles O32: an edge is latched on top of a pending one. -/
theorem rdyFallLatchesTheEdge : Obligations.RdyFallLatchesTheEdge := by
  refine ⟨rfl, fun s hr => ?_⟩
  rw [exec, execRdyFall, if_neg (by simp [hr])]
  cases ha : s.wake.armed <;> simp [ha]

/-- Settles O33: the wake mechanism is not touched. -/
theorem rdyRiseWithdrawsReady : Obligations.RdyRiseWithdrawsReady := by
  refine ⟨rfl, fun s hr => ?_⟩
  rw [exec, execRdyRise, if_pos hr]

/-- Settles O34: entering the interrupt context clears the pending wake, and the scheduler step keeps `result`. -/
theorem isrServiceRunsTheScheduler : Obligations.IsrServiceRunsTheScheduler := by
  refine ⟨rfl, fun s => ⟨isrEnabled_iff s, fun hi hh ha hp => ?_⟩⟩
  have henter : irqEnter s = { s with wake := { armed := true, pending := false } } := by simp [irqEnter, ha]
  refine ⟨_, exec_schedStep_runs _ hh, ?_⟩
  rw [exec, execIsrService_of_enabled ((isrEnabled_iff s).2 ⟨hi, hh, ha, hp⟩), ← henter]
  have hresult : (runSchedStep (irqEnter s)).result = s.result := runSchedStep_result (irqEnter s)
  rw [← hresult]

/-- Settles O35: each event step tests whether it is enabled before it does anything. -/
theorem disabledEventStepPasses : Obligations.DisabledEventStepPasses := by
  refine fun s => ⟨fun hr => ?_, fun hr => ?_, fun hh hd => ?_⟩
  · rw [exec, execRdyFall, if_pos hr]
  · rw [exec, execRdyRise, if_neg (by simp [hr])]
  · rw [exec, execIsrService_of_disabled hh hd]

/-! ### No step halts (R50, R190) -/

@[simp] theorem setQueue_halted (q : QueueSel) (v : Queue) (s : State) : (setQueue q v s).halted = s.halted := by
  cases q <;> rfl

@[simp] theorem initQueue_halted (q : QueueSel) (s : State) : (initQueue q s).halted = s.halted :=
  setQueue_halted q _ s

@[simp] theorem enqueue_halted (q : QueueSel) (f : Frame) (s : State) : (enqueue q f s).2.halted = s.halted := by
  rw [enqueue_frame, setQueue_halted]

@[simp] theorem dequeue_halted (q : QueueSel) (s : State) : (dequeue q s).2.halted = s.halted := by
  rw [dequeue_frame, setQueue_halted]

@[simp] theorem runTransfer_halted (out : Frame) (s : State) : (runTransfer out s).halted = s.halted := by
  rw [runTransfer_onlyCycle out s]

@[simp] theorem armIfIrq_halted (s : State) : (armIfIrq s).halted = s.halted := by rw [armIfIrq_eq]

@[simp] theorem disarmIfIrq_halted (s : State) : (disarmIfIrq s).halted = s.halted := by rw [disarmIfIrq_eq]

theorem initBody_halted (s : State) : (initBody s).halted = s.halted := by
  unfold initBody
  split <;> simp [initLines, setDirections, initStore]

theorem sendStep1_halted (s : State) : (sendStep1 s).halted = s.halted := by
  unfold sendStep1
  split
  · simp
  · split <;> simp

theorem sendStep2_halted (s : State) : (sendStep2 s).halted = s.halted := by
  unfold sendStep2
  split <;> simp

theorem tryRxStep1_halted (s : State) : (tryRxStep1 s).halted = s.halted := by
  have htick : (receiveTick s).halted = s.halted := by unfold receiveTick; split <;> simp
  rw [tryRxStep1_eq]
  split <;> exact htick

theorem tryRxStep2_halted (s : State) : (tryRxStep2 s).halted = s.halted := by
  unfold tryRxStep2
  split <;> simp

theorem tryRxStep3_halted (s : State) : (tryRxStep3 s).halted = s.halted := by
  unfold tryRxStep3
  split <;> simp [reopen_eq]

theorem peekBody_halted (s : State) : (peekBody s).halted = s.halted := by
  unfold peekBody
  split <;> simp

theorem flushBody_halted (s : State) : (flushBody s).halted = s.halted := by simp [flushBody]

theorem fgMicroStep_halted (s : State) : (fgMicroStep s).halted = s.halted := by
  unfold fgMicroStep
  split
  · rfl
  · exact sendStep2_halted s
  · exact tryRxStep2_halted s
  · exact tryRxStep3_halted s

/-- A command whose body does not halt, does not halt. -/
theorem accept_keeps_halted {op : Byte} {body : State → State} {s t : State} (h : accept op body s = .next t)
    (hb : (body s).halted = s.halted) : t.halted = s.halted := by
  obtain ⟨-, -, ⟨rfl, -⟩ | ⟨rfl, -⟩ | ⟨rfl, -⟩⟩ := accept_next h
  · rfl
  · rfl
  · exact hb

theorem direct_keeps_halted {op : State → CallResult × State} {s t : State} (h : direct op s = .next t)
    (ho : (op s).2.halted = s.halted) : t.halted = s.halted := by
  unfold direct at h
  split at h <;> cases h
  exact ho

/-- No operation halts the block: the scheduler step enqueues in RXQ only with room there (R190). -/
theorem exec_keeps_halted {i : Instr} {s t : State} (h : exec i s = .next t) : t.halted = s.halted := by
  cases i with
  | init c => exact accept_keeps_halted (s := { s with opcfg := c }) h (initBody_halted _)
  | send f => exact accept_keeps_halted (s := { s with opframe := f }) h (sendStep1_halted _)
  | tryReceive => exact accept_keeps_halted h (tryRxStep1_halted s)
  | peekReceive => exact accept_keeps_halted h (peekBody_halted s)
  | flush => exact accept_keeps_halted h (flushBody_halted s)
  | pinReset =>
    rw [exec, execPinReset] at h
    exact accept_keeps_halted h (resetPulse_halted s)
  | rxqFull | rxqEmpty | txqFull | txqEmpty => exact accept_keeps_halted h rfl
  | qInit q => exact direct_keeps_halted h (initQueue_halted q s)
  | qEnq q => rw [exec, execQEnq] at h; exact direct_keeps_halted h (enqueue_halted q _ s)
  | qDeq q => rw [exec, execQDeq] at h; exact direct_keeps_halted h (dequeue_halted q s)
  | qPeek q | qFull q | qEmpty q => exact direct_keeps_halted h rfl
  | reqAssert | reqDeassert | wakeArm | wakeDisarm => exact direct_keeps_halted h rfl
  | rdyRead => rw [exec, execRdyRead] at h; exact direct_keeps_halted h rfl
  | resetPulse => exact direct_keeps_halted h (resetPulse_halted s)
  | transfer => rw [exec, execTransfer] at h; exact direct_keeps_halted h (runTransfer_halted _ s)
  | schedStep => exact direct_keeps_halted h (runSchedStep_halted s)
  | rdyFall => rw [exec_lineStep (.inl rfl) h]
  | rdyRise => rw [exec_lineStep (.inr rfl) h]
  | isrService =>
    obtain rfl | rfl := execIsrService_next h
    · rfl
    · exact runSchedStep_halted _

/-- Settles O31: by what the step can have been. -/
theorem noStepHalts : Obligations.NoStepHalts := by
  intro s t h
  rcases step_next h with ⟨-, -, rfl⟩ | ⟨-, -, op, tl, -, -, rfl⟩ | ⟨-, -, i, rest, -, he, -⟩ | ⟨-, -, -, rfl⟩ |
    ⟨code, ts, i, rest, -, -, he⟩
  · rfl
  · rfl
  · exact exec_keeps_halted (s := { s with port := rest, turns := s.turns.tail }) he
  · exact fgMicroStep_halted _
  · exact exec_keeps_halted (s := { s with turns := ts }) he

/-! ### One context runs the scheduler (R191) -/

/-- The foreground's step in interrupt-driven mode leaves the bus untouched. -/
theorem step_quiet {s t : State} (ht : s.fgTurn) (hq : s.cfg.irqMode = true) (h : step s = .next t) : Quiet s t := by
  have hport (p : List Byte) : Quiet s { s with port := p, turns := s.turns.tail } := .of_eq rfl rfl rfl rfl
  have hturn : Quiet s { s with turns := s.turns.tail } := .of_eq rfl rfl rfl rfl
  rcases step_next h with ⟨-, -, rfl⟩ | ⟨-, -, op, tl, -, -, rfl⟩ | ⟨-, -, i, rest, hd, he, op, tl, hp, h9⟩ |
    ⟨-, -, -, rfl⟩ | ⟨code, ts, i, rest, hop, -, -⟩
  · exact hturn
  · exact (hport tl).trans (respondWith_quiet _ _ _)
  · rw [hp] at hd
    exact (hport rest).trans (exec_command_quiet (decode_isCommand hd h9) hq he)
  · exact hturn.trans (fgMicroStep_quiet _)
  · simp [State.fgTurn, hop] at ht

/-- Settles O51: in poll mode the wake mechanism is never armed (R50 (a)), and in interrupt-driven mode the foreground leaves
the bus untouched. -/
theorem oneContextRunsTheScheduler : Obligations.OneContextRunsTheScheduler := by
  intro s t hinv h
  refine ⟨fun hq => ?_, fun hq ht => step_quiet ht hq h⟩
  simp [State.isrEnabled, hinv.pollQuiet hq]

end Sys2Proof.Machine

namespace Sys2Proof.Machine
open Sys2Proof

/-! ### What a step can answer (R200, R201, R293) -/

/-- The four outcomes of a step: a next state, or a fault with its cause. None refuses. -/
theorem step_outcomes (s : State) :
    (∃ t, step s = .next t) ∨ (step s = .fault .halted ∧ s.halted = true) ∨
    (step s = .fault .commandInFlight ∧ s.fg.phase ≠ .idle ∧ ∃ code ts, s.turns = .op code :: ts ∧ code.toNat ≤ 0x09) ∨
    (step s = .fault .noSuchOperation ∧ ∃ code ts e, s.turns = .op code :: ts ∧
      decode s.par.maxLength [code] = .error e) := by
  rcases turn_cases s with hfg | ⟨code, ts, hop⟩
  · by_cases hh : s.halted = true
    · exact .inr (.inl ⟨step_of_halted hfg hh, hh⟩)
    have hh : s.halted = false := by simpa using hh
    by_cases hp : s.fg.phase = .idle
    · rw [step_of_accepting hfg ⟨hh, hp⟩]
      left
      rcases portMove_cases { s with turns := s.turns.tail } with e | ⟨op, tl, -, -, e⟩ | ⟨i, rest, op, tl, -, -, -, e⟩ <;>
        rw [e]
      · exact ⟨_, rfl⟩
      · exact ⟨_, rfl⟩
      · exact exec_next_of_running hh fun _ => hp
    · exact .inl ⟨_, step_of_inFlight hfg hh hp⟩
  · rw [step_of_op hop]
    cases hd : decode s.par.maxLength [code] with
    | error e => exact .inr (.inr (.inr ⟨rfl, code, ts, e, hop, hd⟩))
    | ok p =>
      obtain ⟨i, rest⟩ := p
      rcases exec_outcomes i { s with turns := ts } with hn | hhalt | ⟨hf, hp, hi⟩
      · exact .inl hn
      · exact .inr (.inl hhalt)
      · exact .inr (.inr (.inl ⟨hf, hp, code, ts, hop, (decode_ok hd).1 ▸ (code_le_nine_iff i).2 hi⟩))

/-- Settles O11: each of the four outcomes excludes the others, and the faults carry their causes. -/
theorem stepFaultsOnlyForANamedReason : Obligations.StepFaultsOnlyForANamedReason := by
  intro s
  rcases step_outcomes s with ⟨t, e⟩ | ⟨e, hh⟩ | ⟨e, hflight⟩ | ⟨e, code, ts, err, hop, hd⟩ <;> rw [e]
  · exact ⟨nofun, nofun, nofun, nofun⟩
  · exact ⟨nofun, fun _ => hh, nofun, nofun⟩
  · exact ⟨nofun, nofun, fun _ => hflight, nofun⟩
  · exact ⟨nofun, nofun, nofun, fun _ => ⟨code, ts, hop, fun i hok => by rw [hd] at hok; cases hok⟩⟩

end Sys2Proof.Machine

namespace Sys2Proof.Machine
open Sys2Proof

/-! ### The ten commands behind the common prologue (R201) -/

/-- What a command does once the prologue lets it run: the first micro-step of R202 to R212. -/
def commandBody : Instr → State → State
  | .init _ => initBody
  | .send _ => sendStep1
  | .tryReceive => tryRxStep1
  | .peekReceive => peekBody
  | .rxqFull => fun s => respond 0x04#8 .ok (s.qFull .rx) none s
  | .rxqEmpty => fun s => respond 0x05#8 .ok (s.qEmpty .rx) none s
  | .txqFull => fun s => respond 0x06#8 .ok (s.qFull .tx) none s
  | .txqEmpty => fun s => respond 0x07#8 .ok (s.qEmpty .tx) none s
  | .flush => flushBody
  | .pinReset => fun s => respond 0x09#8 .ok true none (resetPulse s)
  | .qInit _ | .qEnq _ | .qDeq _ | .qPeek _ | .qFull _ | .qEmpty _
  | .reqAssert | .reqDeassert | .rdyRead | .wakeArm | .wakeDisarm | .resetPulse
  | .transfer | .schedStep | .rdyFall | .rdyRise | .isrService => id

/-- A command's meaning is the prologue and then its body, with the operand latched (R46, R201). -/
theorem exec_command_eq_accept {i : Instr} (hi : i.isCommand = true) (s : State) :
    exec i s = accept i.code (commandBody i) (withOperand i s) := by
  cases i with
  | init | send | tryReceive | peekReceive | rxqFull | rxqEmpty | txqFull | txqEmpty | flush => rfl
  | pinReset => rw [exec, execPinReset]; rfl
  | _ => cases hi

theorem withOperand_accepting {s : State} (i : Instr) (h : s.accepting) : (withOperand i s).accepting := by
  cases i <;> exact h

@[simp] theorem withOperand_inited (i : Instr) (s : State) : (withOperand i s).inited = s.inited := by
  cases i <;> rfl

/-- A command other than INITIALIZE runs its body in an initialised block. -/
theorem accept_of_serving {op : Byte} (body : State → State) {s : State} (h : s.serving) (hop : op ≠ 0x00#8) :
    accept op body s = .next (body s) := by
  obtain ⟨hh, hp, hinit⟩ := h
  exact accept_runs _ _ _ ⟨hh, hp⟩ (by simp [hop, hinit])

/-- Settles O37: the two refusals of the prologue, which all ten commands share. -/
theorem prologueRefuses : Obligations.PrologueRefuses := by
  intro s i ha hi
  rw [exec_command_eq_accept hi]
  refine ⟨fun hinit hc => ?_, fun hinit hc => ?_⟩
  · rw [accept_notInit _ _ _ (withOperand_accepting i ha) hc (by simpa using hinit), reject_eq_responded]
  · rw [hc, accept_alreadyInit _ _ (withOperand_accepting i ha) (by simpa using hinit), reject_eq_responded]

/-! ### INITIALIZE, FLUSH and PIN_RESET (R202, R211, R212) -/

/-- R147: the reset pulse as one update, for either variant. -/
theorem resetPulse_eq (s : State) : resetPulse s = { s with
    line := { s.line with rst := some (decide (s.cfg.variant = 0x00#8)) }
    trace := s.trace ++ pulseEvents s.par s.cfg.variant } := by
  rw [resetPulse_frame, resetPulse_line, resetPulse_trace]
  rfl

/-- The line actions of INITIALIZE as one update (R202). -/
theorem initLines_eq (s : State) : initLines s = { s with
    line := { req := false, ready := s.line.ready, rst := some (decide (s.cfg.variant = 0x00#8)) }
    trace := s.trace ++ [.dir .req .output, .dir .rdy .input, .dir .rst .output] ++ pulseEvents s.par s.cfg.variant ++
      [.write .req false, .delay s.par.tInitSettle] } := by
  rw [initLines, resetPulse_eq]
  simp [setDirections, reqDeassert, emit]

/-- `CFG <- OPCFG; BusConfig; Q_INIT(TXQ); Q_INIT(RXQ)` as one update (R202). -/
theorem initStore_eq (s : State) : initStore s = { s with
    cfg := cfgOf s.opcfg
    txq := { s.txq with head := 0, tail := 0, count := 0 }, rxq := { s.rxq with head := 0, tail := 0, count := 0 }
    trace := s.trace ++ [.busConfig s.opcfg.clkDiv] } := rfl

/-- What INITIALIZE leaves before it answers, as one update (R202). -/
theorem initBody_of_valid (s : State) (h : validConfig s.par s.opcfg = true) :
    initBody s = responded 0x00#8 .ok true none { s with
      cfg := cfgOf s.opcfg
      txq := { s.txq with head := 0, tail := 0, count := 0 }, rxq := { s.rxq with head := 0, tail := 0, count := 0 }
      line := { req := false, ready := s.line.ready, rst := some (decide (s.opcfg.variant = 0x00#8)) }
      wake := if s.opcfg.irqMode then
          { armed := true, pending := s.wake.pending || (s.par.armSamplesLevel && s.line.ready) }
        else s.wake
      inited := true
      trace := s.trace ++ [.busConfig s.opcfg.clkDiv, .dir .req .output, .dir .rdy .input, .dir .rst .output] ++
        pulseEvents s.par s.opcfg.variant ++ [.write .req false, .delay s.par.tInitSettle] ++
        (if s.opcfg.irqMode then [.arm .falling] else []) } := by
  rw [initBody, if_pos h, respond_eq_responded, armIfIrq_eq, initLines_eq, initStore_eq]
  simp only [List.append_assoc, List.cons_append, List.nil_append]
  rfl

theorem setPhase_idle_of_idle {fg : Foreground} (h : fg.phase = .idle) : { fg with phase := .idle } = fg := by rw [← h]

/-- Settles O38: the record is valid or not, and a valid one is stored before the lines and the wake mechanism move. -/
theorem initializeConfiguresOrRefuses : Obligations.InitializeConfiguresOrRefuses := by
  intro s c ha hinit
  have hrun : exec (.init c) s = .next (initBody { s with opcfg := c }) := accept_runs _ _ _ ha (by simp [hinit])
  rw [hrun, ← validConfig_iff]
  refine ⟨fun hvalid => ?_, fun hinvalid => ?_⟩
  · rw [initBody_of_valid _ hvalid, responded, setPhase_idle_of_idle ha.2]
    rfl
  · rw [initBody, if_neg hinvalid, reject_eq_responded]

/-- FLUSH's body as one update: in interrupt-driven mode the disarm drops what was pending before the arm (R211). -/
theorem flushBody_eq (s : State) : flushBody s = responded 0x08#8 .ok true none { s with
    txq := { s.txq with head := 0, tail := 0, count := 0 }, rxq := { s.rxq with head := 0, tail := 0, count := 0 }
    wake := if s.cfg.irqMode then { armed := true, pending := s.par.armSamplesLevel && s.line.ready } else s.wake
    trace := s.trace ++ (if s.cfg.irqMode then [.disarm, .arm .falling] else []) } := by
  rw [flushBody, respond_eq_responded, armIfIrq_eq, disarmIfIrq_eq]
  cases hq : s.cfg.irqMode <;> simp [hq, initQueue, setQueue, Wake.off]

/-- Settles O43: the block is serving, so FLUSH's body runs. -/
theorem flushEmptiesBothQueues : Obligations.FlushEmptiesBothQueues := by
  refine ⟨rfl, fun s h => ?_⟩
  have hrun : exec .flush s = .next (flushBody s) := accept_of_serving flushBody h (by decide)
  rw [hrun, flushBody_eq]

/-- Settles O44: the pulse is that of RESET_PULSE, which is one update of the reset level and TRACE. -/
theorem pinResetPulsesOnly : Obligations.PinResetPulsesOnly := by
  refine ⟨rfl, fun s h => ⟨_, direct_noResult_runs resetPulse s h.1, ?_⟩⟩
  rw [exec, execPinReset, accept_of_serving _ h (by decide), respond_eq_responded, resetPulse_eq]

end Sys2Proof.Machine

namespace Sys2Proof.Machine
open Sys2Proof

/-! ### SEND (R204) -/

section
variable {s : State}

theorem sendStep1_of_long (h : s.par.maxLength < s.opframe.length.toNat) :
    sendStep1 s = responded 0x01#8 .rejLength false none s := by
  rw [sendStep1, if_pos h, reject_eq_responded]

theorem sendStep1_of_full (hl : s.opframe.length.toNat ≤ s.par.maxLength) (h : s.txq.count = s.par.capacity) :
    sendStep1 s = responded 0x01#8 .rejFull false none s := by
  rw [sendStep1, if_neg (Nat.not_lt.2 hl), enqueue_of_full .tx _ s ((qFull_iff .tx s).2 h), reject_eq_responded]
  rfl

theorem sendStep1_of_room (hl : s.opframe.length.toNat ≤ s.par.maxLength) (h : s.txq.count ≠ s.par.capacity) :
    sendStep1 s = { s with
      txq := s.txq.push s.par.capacity s.opframe, fg := { s.fg with phase := .send2 } } := by
  rw [sendStep1, if_neg (Nat.not_lt.2 hl), enqueue_of_room .tx _ s ((qFull_eq_false_iff .tx s).2 h)]
  rfl

end

theorem sendStep2_eq (s : State) : sendStep2 s = responded 0x01#8 .ok true none
    (if s.par.sendAssertsReq = true ∧ s.rxq.count ≠ s.par.capacity then
      { s with line := { s.line with req := true }, trace := s.trace ++ [.write .req true] } else s) := by
  rw [sendStep2, respond_eq_responded, sendRequest_eq]

/-- Settles O39: the three cases of micro-step 1, and micro-step 2. -/
theorem sendQueuesThenAnswers : Obligations.SendQueuesThenAnswers := by
  refine ⟨fun s f h => ?_, fun s hh ht hp => ?_⟩
  · have hserving : ({ s with opframe := f } : State).serving := h
    have hrun : exec (.send f) s = .next (sendStep1 { s with opframe := f }) :=
      accept_of_serving sendStep1 hserving (by decide)
    rw [hrun]
    refine ⟨fun hlong => ?_, fun hl hfull => ?_, fun hl hwf hroom => ?_⟩
    · rw [sendStep1_of_long (by exact hlong)]
    · rw [sendStep1_of_full (by exact hl) (by exact hfull)]
    · refine ⟨s.txq.push s.par.capacity f, contents_push _ _ _ hwf hroom, rfl, rfl, rfl, ?_⟩
      rw [sendStep1_of_room (by exact hl) (by exact hroom)]
  · obtain ⟨hstep, -, -⟩ := stepContinuesTheCommandInFlight s hh ht
    rw [hstep hp, sendStep2_eq]

/-! ### TRY_RECEIVE (R205) -/

section
variable {s : State}

theorem tryRxStep1_of_irq (hh : s.halted = false) (hq : s.cfg.irqMode = true) :
    tryRxStep1 s = { s with fg := { s.fg with phase := .tryRx2 } } := by
  rw [tryRxStep1_eq, if_neg (by simp [hh]), receiveTick, if_pos hq]

theorem tryRxStep1_of_poll (hh : s.halted = false) (hq : s.cfg.irqMode = false) :
    tryRxStep1 s = { runSchedStep s with fg := { s.fg with phase := .tryRx2 } } := by
  rw [tryRxStep1_eq, if_neg (by simp [hh]), receiveTick, if_neg (by simp [hq]), runSchedStep_fg]

theorem tryRxStep2_of_empty (h : s.rxq.count = 0) :
    tryRxStep2 s = responded 0x02#8 .rejEmpty false none { s with
      fg := { s.fg with wasFull := decide (s.rxq.count = s.par.capacity) } } := by
  rw [tryRxStep2, dequeue_of_empty .rx s ((qEmpty_iff .rx s).2 h), qFull_eq_decide]
  rfl

theorem tryRxStep2_of_some (h : s.rxq.count ≠ 0) :
    tryRxStep2 s = { s with
      rxq := s.rxq.pop s.par.capacity
      fg := { phase := .tryRx3, wasFull := decide (s.rxq.count = s.par.capacity)
              res := { code := .ok, flag := true, frame := some (s.rxq.front s.par.maxLength) } } } := by
  rw [tryRxStep2, dequeue_of_some .rx s ((qEmpty_eq_false_iff .rx s).2 h), qFull_eq_decide]
  rfl

end

theorem tryRxStep3_eq (s : State) : tryRxStep3 s = respondWith 0x02#8 s.fg.res
    (if s.cfg.irqMode = true ∧ s.fg.wasFull = true then reopen s else s) := by
  simp only [tryRxStep3, Bool.and_eq_true]

/-- Settles O40: micro-step 1 by the mode, micro-step 2 by RXQ, micro-step 3 by whether RXQ is reopened. -/
theorem tryReceiveTicksTakesAndReopens : Obligations.TryReceiveTicksTakesAndReopens := by
  refine ⟨fun s h => ?_, fun s hh ht hp hwf => ?_, fun s hh ht hp => ?_⟩
  · have hrun : exec .tryReceive s = .next (tryRxStep1 s) := accept_of_serving tryRxStep1 h (by decide)
    obtain ⟨hh, -, -⟩ := h
    rw [hrun]
    refine ⟨fun hq => ?_, fun hq => ⟨_, exec_schedStep_runs s hh, ?_⟩⟩
    · rw [tryRxStep1_of_irq hh hq]
    · rw [tryRxStep1_of_poll hh hq, ← runSchedStep_result s]
  · obtain ⟨-, hstep, -⟩ := stepContinuesTheCommandInFlight s hh ht
    rw [hstep hp]
    refine ⟨fun hempty => ?_, fun hsome => ⟨s.rxq.front s.par.maxLength, _, rfl, ?_, ?_⟩⟩
    · rw [tryRxStep2_of_empty (by exact hempty)]
    · exact contents_eq_front_cons s.par s.rxq hwf hsome
    · rw [tryRxStep2_of_some (by exact hsome)]
      rfl
  · obtain ⟨-, -, hstep⟩ := stepContinuesTheCommandInFlight s hh ht
    rw [hstep hp, tryRxStep3_eq, reopen_eq]
    rfl

/-! ### PEEK_RECEIVE and the queries (R206 to R210) -/

/-- Settles O41: PEEK_RECEIVE answers by the first of the contents. -/
theorem peekReceiveLooksOnly : Obligations.PeekReceiveLooksOnly := by
  refine ⟨rfl, fun s h hwf => ?_⟩
  have hrun : exec .peekReceive s = .next (peekBody s) := accept_of_serving peekBody h (by decide)
  rw [hrun, peekBody, peek_eq_head? .rx s hwf]
  refine ⟨fun hempty => ?_, fun hsome => ?_⟩
  · have hnil : s.contents .rx = [] := contents_of_empty _ _ hempty
    rw [hnil]
    rfl
  · have hfront : (s.contents .rx).head? = _ := contents_front s.par s.rxq hwf hsome
    rw [hfront]
    exact ⟨_, rfl, rfl⟩

theorem dequeue_count_le (q : QueueSel) (s : State) : ((dequeue q s).2.queue q).count ≤ (s.queue q).count := by
  unfold dequeue
  split
  · exact Nat.le_refl _
  · rw [setQueue_queue_same]
    exact Nat.sub_le _ _

/-- A scheduler step only fills RXQ and only empties TXQ, whatever the state of the two (R184). -/
theorem runSchedStep_counts (s : State) :
    s.rxq.count ≤ (runSchedStep s).rxq.count ∧ (runSchedStep s).txq.count ≤ s.txq.count := by
  cases hfull : s.qFull .rx with
  | true => rw [runSchedStep_of_full s hfull]; exact ⟨Nat.le_refl _, Nat.le_refl _⟩
  | false =>
    cases hr : s.line.ready with
    | false => rw [runSchedStep_of_notReady s hfull hr]; split <;> exact ⟨Nat.le_refl _, Nat.le_refl _⟩
    | true =>
      rw [runSchedStep_of_ready s hfull hr, capacityEdge_eq]
      simp only [rearm_rxq, rearm_txq]
      have hrx := afterTransfer_rxq s
      have htx := afterTransfer_txq s
      have hle : (dequeue .tx s).2.txq.count ≤ s.txq.count := dequeue_count_le .tx s
      unfold storeReceived
      split
      · rw [hrx, htx]; exact ⟨Nat.le_refl _, hle⟩
      · rw [htx, hrx]; exact ⟨Nat.le_succ _, hle⟩

/-- Behind the application RXQ only fills and TXQ only empties (R207 to R210). -/
theorem exec_event_counts {i : Instr} {s t : State} (hi : i.isEvent = true) (h : exec i s = .next t) :
    s.rxq.count ≤ t.rxq.count ∧ t.txq.count ≤ s.txq.count := by
  cases i with
  | rdyFall => rw [exec_lineStep (.inl rfl) h]; exact ⟨Nat.le_refl _, Nat.le_refl _⟩
  | rdyRise => rw [exec_lineStep (.inr rfl) h]; exact ⟨Nat.le_refl _, Nat.le_refl _⟩
  | isrService =>
    obtain rfl | rfl := execIsrService_next h
    · exact ⟨Nat.le_refl _, Nat.le_refl _⟩
    · exact runSchedStep_counts (irqEnter s)
  | _ => cases hi

/-- Settles O42: each query answers its flag, a test of `count` (R27). -/
theorem queriesAnswerTheFlags : Obligations.QueriesAnswerTheFlags := by
  refine ⟨⟨rfl, rfl, rfl, rfl⟩, fun s h => ⟨?_, ?_, ?_, ?_⟩, fun s t i => exec_event_counts⟩
  · rw [exec, execRxqFull, accept_of_serving _ h (by decide), respond_eq_responded, qFull_eq_decide]
    rfl
  · rw [exec, execRxqEmpty, accept_of_serving _ h (by decide), respond_eq_responded, qEmpty_eq_decide]
    rfl
  · rw [exec, execTxqFull, accept_of_serving _ h (by decide), respond_eq_responded, qFull_eq_decide]
    rfl
  · rw [exec, execTxqEmpty, accept_of_serving _ h (by decide), respond_eq_responded, qEmpty_eq_decide]
    rfl

end Sys2Proof.Machine

namespace Sys2Proof.Machine
open Sys2Proof

/-! ### A TRY_RECEIVE in poll mode (R205, R283) -/

theorem setTurns_tail_of_nil {s : State} (ht : s.turns = []) : { s with turns := s.turns.tail } = s := by
  rw [ht, List.tail_nil, ← ht]

/-- With no turn listed, a command at the port with its bytes at hand is run, and those bytes are taken (R94, R200). -/
theorem step_of_command {s : State} {i : Instr} {rest : List Byte} (h : s.accepting) (ht : s.turns = [])
    (hd : decode s.par.maxLength s.port = .ok (i, rest)) (hi : i.isCommand = true) :
    step s = exec i { s with port := rest } := by
  have hrun := stepRunsTheCommandAtThePort s i rest h (by simp [State.fgTurn, ht]) hd hi
  rw [ht] at hrun
  rw [hrun, List.tail_nil, ← ht]

/-- With no turn listed, the command in flight takes its next micro-step (R45, R200). -/
theorem step_of_micro {s : State} (hh : s.halted = false) (ht : s.turns = []) (hp : s.fg.phase ≠ .idle) :
    step s = .next (fgMicroStep s) := by
  rw [step_of_inFlight (by simp [State.fgTurn, ht]) hh hp, setTurns_tail_of_nil ht]

/-- What a scheduler step that receives a frame into an empty RXQ leaves (R184, R283): that frame alone, with the declared
length D and the status COP has sent. -/
structure OneReceived (s : State) (status D : Byte) (t : State) : Prop where
  rx : t.contents .rx = [t.te.rx]
  count : t.rxq.count = 1
  wf : t.rxq.wf t.par
  status : t.te.rx.status = status
  declared : t.te.d = D
  raw : t.te.rx.payload.head? = some D
  tx : t.contents .tx = (s.contents .tx).tail

/-- The registers of a cycle hold the first two replies (R163, R164). -/
theorem runTransfer_of_replies (out : Frame) {s : State} {status D : Byte} {more : List Byte}
    (hr : s.replies = status :: D :: more) :
    (runTransfer out s).te.rx.status = status ∧ (runTransfer out s).te.d = D ∧
      (runTransfer out s).te.rx.payload.head? = some D := by
  have hD : declared s = D := nextReply_cons (show (takeReply s).replies = D :: more by simp [hr])
  obtain ⟨-, -, -, hd, -, -, hstatus, hraw, -⟩ := runTransfer_registers out s
  rw [hD] at hd hraw
  exact ⟨hstatus.trans (nextReply_cons hr), hd, List.head?_eq_getElem?.trans hraw⟩

theorem runSchedStep_oneReceived {s : State} {status D : Byte} {more : List Byte} (hcap : s.par.capacity ≠ 0)
    (htx : s.txq.wf s.par) (hrx : s.rxq.wf s.par) (hempty : s.rxq.count = 0) (hready : s.line.ready = true)
    (hreplies : s.replies = status :: D :: more) (hD : D ≠ 0x00#8) :
    OneReceived s status D (runSchedStep s) := by
  have hroom : s.rxq.count ≠ s.par.capacity := by rw [hempty]; exact hcap.symm
  obtain ⟨c, hc⟩ : ∃ c, c = runTransfer ((s.contents .tx).headD (Frame.zero s.par.maxLength))
      { s with trace := s.trace ++ [.read .rdy true] } := ⟨_, rfl⟩
  obtain ⟨hstatus, hd, hraw⟩ : c.te.rx.status = status ∧ c.te.d = D ∧ c.te.rx.payload.head? = some D := by
    rw [hc]
    exact runTransfer_of_replies _ (by exact hreplies)
  have hne : c.te.d ≠ 0x00#8 := by rw [hd]; exact hD
  have hshaped : c.te.d ≠ 0x00#8 → c.te.rx.shaped s.par.maxLength = true := by
    rw [hc]
    exact fun h => (runTransfer_shaped_received _ _ h).1
  have hcontents : (rxqAfter s c).contents s.par = [c.te.rx] := by
    have hnil : s.contents .rx = [] := contents_of_empty _ _ hempty
    rw [rxqAfter_contents s c hrx hroom, hnil, if_neg hne, List.nil_append]
  rw [runSchedStep_cycle s c htx hroom hready hc]
  exact
    { rx := hcontents
      count := by rw [← contents_length s.par, hcontents]; rfl
      wf := rxqAfter_wf s c hrx hroom hshaped
      status := hstatus
      declared := hd
      raw := hraw
      tx := dequeue_txq_contents s }

/-- Micro-steps 2 and 3 in poll mode, with one frame in RXQ: it is taken and answered, and nothing is reopened (R205). -/
theorem run_poll_takes_and_answers {s : State} {f : Frame} (hh : s.halted = false) (ht : s.turns = [])
    (hp : s.fg.phase = .tryRx2) (hpoll : s.cfg.irqMode = false) (hwf : s.rxq.wf s.par) (hone : s.contents .rx = [f]) :
    ∃ fg, Host.Core.run Sys2Proof.core 2 s = .next (responded 0x02#8 .ok true (some f)
      { s with rxq := s.rxq.pop s.par.capacity, fg := fg }) := by
  have hcontents : s.rxq.contents s.par = [f] := hone
  have hsome : s.rxq.count ≠ 0 := by
    rw [← contents_length s.par, hcontents]
    exact Nat.one_ne_zero
  have hfront : s.rxq.front s.par.maxLength = f := by
    rw [contents_eq_front_cons s.par s.rxq hwf hsome] at hcontents
    exact (List.cons.inj hcontents).1
  have htake := step_of_micro hh ht (by simp [hp])
  rw [fgMicroStep_of_tryRx2 hp] at htake
  obtain ⟨v, hv⟩ : ∃ v, v = tryRxStep2 s := ⟨_, rfl⟩
  rw [← hv] at htake
  rw [tryRxStep2_of_some hsome, hfront] at hv
  have hphase : v.fg.phase = .tryRx3 := by rw [hv]
  have hanswer := step_of_micro (s := v) (by rw [hv]; exact hh) (by rw [hv]; exact ht) (by simp [hphase])
  rw [fgMicroStep_of_tryRx3 hphase, tryRxStep3_eq, if_neg (by simp [hv, hpoll])] at hanswer
  refine ⟨v.fg, (core_run_succ htake).trans ((core_run_succ hanswer).trans ?_)⟩
  rw [core_run_zero, hv]
  rfl

/-- Settles O45: the tick leaves one frame in RXQ, which the two steps after it take and answer. -/
theorem pollReceiveReturnsTheFrameOfItsTick : Obligations.PollReceiveReturnsTheFrameOfItsTick := by
  intro s status D more rest h ht hport hvalid htx hrx hpoll hempty hready hreplies hD
  have hcap : s.par.capacity ≠ 0 := by simp [Params.valid] at hvalid; omega
  obtain ⟨hh, hidle, hinit⟩ := h
  have hone : OneReceived { s with port := rest } status D (runSchedStep { s with port := rest }) :=
    runSchedStep_oneReceived hcap htx hrx hempty hready hreplies hD
  have hserving : ({ s with port := rest } : State).serving := ⟨hh, hidle, hinit⟩
  have htick : step s = .next (tryRxStep1 { s with port := rest }) :=
    (step_of_command (i := .tryReceive) ⟨hh, hidle⟩ ht (by rw [hport]; rfl) rfl).trans
      (accept_of_serving tryRxStep1 hserving (by decide))
  rw [tryRxStep1_of_poll (by exact hh) (by exact hpoll)] at htick
  obtain ⟨-, hcfg, -, hhalted, -, -, -, -, hportu, hturns, -⟩ := (runSchedStep_onlySched { s with port := rest }).fields
  generalize runSchedStep { s with port := rest } = u at htick hone hcfg hhalted hportu hturns
  obtain ⟨fg, hrun⟩ := run_poll_takes_and_answers (s := { u with fg := { s.fg with phase := .tryRx2 } })
    (hhalted.trans hh) (hturns.trans ht) rfl (by rw [hcfg]; exact hpoll) hone.wf hone.rx
  refine ⟨_, (core_run_succ htick).trans hrun, rfl, hone.status, hone.declared, hone.raw, ?_, rfl, hportu, hone.tx⟩
  exact congrArg (· - 1) hone.count

end Sys2Proof.Machine

namespace Sys2Proof.Machine
open Sys2Proof

/-! ### Every command is answered once (R200) -/

/-- From `s` to `t` no response is given: the block runs on, nothing is taken from the port, and no turn is used up. -/
structure Unanswered (s t : State) : Prop where
  halted : t.halted = s.halted
  port : t.port = s.port
  turns : t.turns = s.turns
  trace : ∃ es : List Event, t.trace = s.trace ++ es ∧ ∀ e ∈ es, e.isResp = false

theorem Unanswered.refl (s : State) : Unanswered s s := ⟨rfl, rfl, rfl, [], (List.append_nil _).symm, nofun⟩

theorem Unanswered.trans {s t u : State} (h : Unanswered s t) (h' : Unanswered t u) : Unanswered s u := by
  obtain ⟨es, ht, hes⟩ := h.trace
  obtain ⟨fs, hu, hfs⟩ := h'.trace
  exact ⟨h'.halted.trans h.halted, h'.port.trans h.port, h'.turns.trans h.turns, es ++ fs,
    by rw [hu, ht, List.append_assoc], fun e he => (List.mem_append.1 he).elim (hes e) (hfs e)⟩

theorem pulseEvents_isResp (p : Params) (variant : Byte) : ∀ e ∈ pulseEvents p variant, e.isResp = false := by
  unfold pulseEvents
  split <;> simp [Event.isResp]

theorem resetPulse_unanswered (s : State) : Unanswered s (resetPulse s) := by
  rw [resetPulse_eq]
  exact ⟨rfl, rfl, rfl, _, rfl, pulseEvents_isResp _ _⟩

theorem reopen_unanswered (s : State) : Unanswered s (reopen s) := by
  rw [reopen_eq]
  refine ⟨rfl, rfl, rfl, _, List.append_assoc _ _ _, ?_⟩
  split <;> simp [Event.isResp]

theorem receiveTick_unanswered (s : State) : Unanswered s (receiveTick s) := by
  unfold receiveTick
  split
  · exact .refl s
  · exact ⟨runSchedStep_halted s, runSchedStep_port s, runSchedStep_turns s, runSchedStep_events s⟩

/-- From `s` to `t` the command `op` is answered, once and at the end. -/
structure Answered (op : Byte) (s t : State) : Prop where
  accepting : t.accepting
  port : t.port = s.port
  trace : ∃ es : List Event, t.trace = s.trace ++ es ++ [.resp op t.resp] ∧ ∀ e ∈ es, e.isResp = false

section
variable {op : Byte} {n : Nat} {s u : State}

theorem Unanswered.respondWith (h : Unanswered s u) (hh : s.halted = false) (op : Byte) (r : Response) :
    Answered op s (respondWith op r u) := by
  obtain ⟨es, ht, hes⟩ := h.trace
  exact ⟨⟨h.halted.trans hh, rfl⟩, h.port, es, by rw [respondWith_trace, respondWith_resp, ht], hes⟩

theorem Unanswered.responded (h : Unanswered s u) (hh : s.halted = false) (op : Byte) (code : Code) (flag : Bool)
    (frame : Option Frame) : Answered op s (responded op code flag frame u) := h.respondWith hh op _

/-- In at most `n` steps from `u`, with only the foreground moving, the command `op` that began in `s` is answered. -/
def AnsweredWithin (op : Byte) (n : Nat) (s u : State) : Prop :=
  ∃ k t, k ≤ n ∧ Host.Core.run Sys2Proof.core k u = .next t ∧ Answered op s t

theorem Answered.within (n : Nat) (h : Answered op s u) : AnsweredWithin op n s u :=
  ⟨0, u, Nat.zero_le n, core_run_zero u, h⟩

theorem AnsweredWithin.mono {m : Nat} (h : AnsweredWithin op n s u) (hle : n ≤ m) : AnsweredWithin op m s u := by
  obtain ⟨k, t, hk, hrun, hanswered⟩ := h
  exact ⟨k, t, hk.trans hle, hrun, hanswered⟩

/-- A micro-step before the answer counts for one (R45). -/
theorem AnsweredWithin.of_micro (hu : Unanswered s u) (hh : s.halted = false) (ht : s.turns = [])
    (hp : u.fg.phase ≠ .idle) (h : AnsweredWithin op n s (fgMicroStep u)) : AnsweredWithin op (n + 1) s u := by
  obtain ⟨k, t, hk, hrun, hanswered⟩ := h
  have hstep := step_of_micro (hu.halted.trans hh) (hu.turns.trans ht) hp
  exact ⟨k + 1, t, Nat.succ_le_succ hk, (core_run_succ hstep).trans hrun, hanswered⟩

/-! Micro-steps after the first. -/

theorem sendStep2_answered (hu : Unanswered s u) (hh : s.halted = false) : Answered 0x01#8 s (sendStep2 u) := by
  unfold sendStep2
  split
  · have hreq : Unanswered u (reqAssert u) := ⟨rfl, rfl, rfl, [.write .req true], rfl, by simp [Event.isResp]⟩
    exact (hu.trans hreq).respondWith hh _ _
  · exact hu.respondWith hh _ _

theorem tryRxStep3_answered (hu : Unanswered s u) (hh : s.halted = false) : Answered 0x02#8 s (tryRxStep3 u) := by
  rw [tryRxStep3_eq]
  split
  · exact (hu.trans (reopen_unanswered u)).respondWith hh _ _
  · exact hu.respondWith hh _ _

theorem tryRxStep2_answered (hu : Unanswered s u) (hh : s.halted = false) (ht : s.turns = []) :
    AnsweredWithin 0x02#8 1 s (tryRxStep2 u) := by
  by_cases hempty : u.rxq.count = 0
  · rw [tryRxStep2_of_empty hempty]
    have hsampled : Unanswered s { u with fg := { u.fg with wasFull := decide (u.rxq.count = u.par.capacity) } } :=
      { hu with }
    exact (hsampled.respondWith hh _ _).within 1
  · rw [tryRxStep2_of_some hempty]
    refine .of_micro { hu with } hh ht nofun ?_
    exact Answered.within 0 (tryRxStep3_answered { hu with } hh)

/-! First micro-steps. -/

theorem initBody_answered (hh : s.halted = false) : Answered 0x00#8 s (initBody s) := by
  by_cases hvalid : validConfig s.par s.opcfg = true
  · rw [initBody_of_valid s hvalid]
    refine Unanswered.responded ?_ hh _ _ _ _
    refine ⟨rfl, rfl, rfl, _, by simp only [List.append_assoc]; rfl, ?_⟩
    simp only [List.forall_mem_append]
    refine ⟨by simp [Event.isResp], pulseEvents_isResp _ _, by simp [Event.isResp], ?_⟩
    split <;> simp [Event.isResp]
  · rw [initBody, if_neg hvalid]
    exact (Unanswered.refl s).respondWith hh _ _

theorem flushBody_answered (hh : s.halted = false) : Answered 0x08#8 s (flushBody s) := by
  rw [flushBody_eq]
  refine Unanswered.responded ?_ hh _ _ _ _
  refine ⟨rfl, rfl, rfl, _, rfl, ?_⟩
  split <;> simp [Event.isResp]

theorem sendStep1_answered (hh : s.halted = false) (ht : s.turns = []) : AnsweredWithin 0x01#8 1 s (sendStep1 s) := by
  by_cases hlong : s.par.maxLength < s.opframe.length.toNat
  · rw [sendStep1_of_long hlong]
    exact ((Unanswered.refl s).respondWith hh _ _).within 1
  · by_cases hfull : s.txq.count = s.par.capacity
    · rw [sendStep1_of_full (Nat.not_lt.1 hlong) hfull]
      exact ((Unanswered.refl s).respondWith hh _ _).within 1
    · rw [sendStep1_of_room (Nat.not_lt.1 hlong) hfull]
      refine .of_micro { Unanswered.refl s with } hh ht nofun ?_
      exact Answered.within 0 (sendStep2_answered { Unanswered.refl s with } hh)

theorem tryRxStep1_answered (hh : s.halted = false) (ht : s.turns = []) :
    AnsweredWithin 0x02#8 2 s (tryRxStep1 s) := by
  have htick := receiveTick_unanswered s
  rw [tryRxStep1_eq, if_neg (by simp [hh])]
  refine .of_micro { htick with } hh ht nofun ?_
  exact tryRxStep2_answered { htick with } hh ht

theorem peekBody_answered (hh : s.halted = false) : Answered 0x03#8 s (peekBody s) := by
  unfold peekBody
  split <;> exact (Unanswered.refl s).respondWith hh _ _

/-- Every command is answered from its first micro-step on within two further steps (R45, R200). -/
theorem commandBody_answered {i : Instr} (hi : i.isCommand = true) (hh : s.halted = false) (ht : s.turns = []) :
    AnsweredWithin i.code 2 s (commandBody i s) := by
  have hself := Unanswered.refl s
  cases i with
  | init c => exact (initBody_answered hh).within 2
  | send f => exact (sendStep1_answered hh ht).mono (Nat.le_succ 1)
  | tryReceive => exact tryRxStep1_answered hh ht
  | peekReceive => exact (peekBody_answered hh).within 2
  | rxqFull | rxqEmpty | txqFull | txqEmpty => exact (hself.respondWith hh _ _).within 2
  | flush => exact (flushBody_answered hh).within 2
  | pinReset => exact ((resetPulse_unanswered s).respondWith hh _ _).within 2
  | _ => cases hi

/-- The prologue's refusals are answers too (R201, R235). -/
theorem accept_answered {body : State → State} (ha : s.accepting) (hn : accept op body s = .next u)
    (hb : AnsweredWithin op 2 s (body s)) : AnsweredWithin op 2 s u := by
  have hrefused (code : Code) : AnsweredWithin op 2 s (reject op code s) :=
    ((Unanswered.refl s).responded ha.1 op code false none).within 2
  obtain ⟨-, -, ⟨rfl, -⟩ | ⟨rfl, -⟩ | ⟨rfl, -⟩⟩ := accept_next hn
  · exact hrefused _
  · exact hrefused _
  · exact hb

end

/-- Settles O46: the step that accepts the command, and at most two micro-steps after it. -/
theorem everyCommandIsAnsweredOnce : Obligations.EveryCommandIsAnsweredOnce := by
  intro s i rest ha ht hd hi
  obtain ⟨v, hv⟩ : ∃ v, v = withOperand i { s with port := rest } := ⟨_, rfl⟩
  obtain ⟨hacc, hturns, hport, htrace⟩ : v.accepting ∧ v.turns = [] ∧ v.port = rest ∧ v.trace = s.trace := by
    rw [hv]
    cases i <;> exact ⟨ha, ht, rfl, rfl⟩
  obtain ⟨u, hu⟩ : ∃ u, exec i { s with port := rest } = .next u := exec_next_of_running ha.1 fun _ => ha.2
  have hstep : step s = .next u := (step_of_command ha ht hd hi).trans hu
  rw [exec_command_eq_accept hi, ← hv] at hu
  obtain ⟨k, t, hk, hrun, hans⟩ := accept_answered hacc hu (commandBody_answered hi hacc.1 hturns)
  obtain ⟨es, htr, hes⟩ := hans.trace
  exact ⟨k + 1, t, es, Nat.le_add_left 1 k, Nat.succ_le_succ hk, (core_run_succ hstep).trans hrun, hans.accepting,
    hans.port.trans hport, by rw [htr, htrace], hes⟩

end Sys2Proof.Machine

namespace Sys2Proof.Machine
open Sys2Proof

/-! ### The halted block (R236) -/

theorem withOperand_halted (i : Instr) (s : State) : (withOperand i s).halted = s.halted := by
  cases i <;> rfl

/-- An internal operation has no step in a halted block (R105, R236). -/
theorem direct_of_halted (op : State → CallResult × State) {s : State} (h : s.halted = true) :
    direct op s = .fault .halted := by
  rw [direct, if_pos h]

theorem execIsrService_of_halted {s : State} (h : s.halted = true) : execIsrService s = .fault .halted := by
  rw [execIsrService, if_pos h]

/-- A command stops at the prologue (R201), an internal operation at the call (R105), ISR_SERVICE at its own test (R186). -/
theorem exec_of_halted {i : Instr} {s : State} (h : s.halted = true) (hfall : i ≠ .rdyFall) (hrise : i ≠ .rdyRise) :
    exec i s = .fault .halted := by
  cases hc : i.isCommand with
  | true => rw [exec_command_eq_accept hc, accept_halted _ _ _ ((withOperand_halted i s).trans h)]
  | false =>
    cases i with
    | rdyFall => exact absurd rfl hfall
    | rdyRise => exact absurd rfl hrise
    | isrService => exact execIsrService_of_halted h
    | init _ | send _ | tryReceive | peekReceive | rxqFull | rxqEmpty | txqFull | txqEmpty | flush | pinReset => cases hc
    | qEnq _ => rw [exec, execQEnq, direct_of_halted _ h]
    | qDeq _ => rw [exec, execQDeq, direct_of_halted _ h]
    | rdyRead => rw [exec, execRdyRead, direct_of_halted _ h]
    | transfer => rw [exec, execTransfer, direct_of_halted _ h]
    | qInit _ | qPeek _ | qFull _ | qEmpty _ | reqAssert | reqDeassert | wakeArm | wakeDisarm | resetPulse | schedStep =>
      exact direct_of_halted _ h

/-- The coprocessor's line steps answer in every block, a halted one too (R187, R188, R236). -/
theorem exec_lineStep_exists {i : Instr} (hi : i = .rdyFall ∨ i = .rdyRise) (s : State) : ∃ t, exec i s = .next t := by
  rcases hi with rfl | rfl
  · rw [exec, execRdyFall]
    split <;> exact ⟨_, rfl⟩
  · rw [exec, execRdyRise]
    split <;> exact ⟨_, rfl⟩

/-- Settles O10: only the line steps do not test HALTED, and they write the ready level and the wake latch alone. -/
theorem haltedBlockHasNoStep : Obligations.HaltedBlockHasNoStep := by
  refine fun s hh => ⟨fun ht => step_of_halted ht hh, fun i => exec_of_halted hh, fun i hi => ?_⟩
  obtain ⟨t, ht⟩ := exec_lineStep_exists hi s
  exact ⟨t, ht, exec_lineStep hi ht⟩

/-! ### The interrupt context (R242) -/

/-- Settles O36: entry clears the pending wake only, and the scheduler step leaves the command port's registers and gives no
response. -/
theorem interruptContextNeverResponds : Obligations.InterruptContextNeverResponds := by
  intro s t h
  rcases execIsrService_next h with rfl | rfl
  · exact ⟨rfl, rfl, rfl, rfl, [], (List.append_nil _).symm, nofun⟩
  · obtain ⟨-, -, -, -, hfg, hopframe, hopcfg, hresp, -⟩ := (runSchedStep_onlySched (irqEnter s)).fields
    exact ⟨hfg, hopframe, hopcfg, hresp, runSchedStep_events (irqEnter s)⟩

end Sys2Proof.Machine

namespace Sys2Proof.Machine
open Sys2Proof

/-! ### Reset (R270) -/

/-- ISR_SERVICE is not enabled before INITIALIZE (R186, R270). -/
theorem isrEnabled_of_not_inited {s : State} (h : s.inited = false) : s.isrEnabled = false := by
  rw [Bool.eq_false_iff, ne_eq, isrEnabled_iff]
  exact fun ⟨hi, _⟩ => Bool.false_ne_true (h.symm.trans hi)

/-- Settles O47: the fields are the ones `State.powerOn` writes, and the build is not initialized, so ISR_SERVICE is off. -/
theorem powerOnStateAsStated : Obligations.PowerOnStateAsStated := fun _ =>
  ⟨rfl, rfl, rfl, rfl, rfl, rfl, rfl, rfl, isrEnabled_of_not_inited rfl⟩

end Sys2Proof.Machine
